-- ==== Sys2Proof/Word.lean ====
section
/-! DEFINITION. The widths of the block's values: every value is an unsigned integer of a stated width
(`00_scope.md` R12, `47_laws_and_sequencing.md` R260). -/

namespace Sys2Proof

/-- A tone, or one colour channel of a Color12: 4 bits (R72, R80). -/
abbrev Nibble := BitVec 4

/-- A byte: an opcode, a payload byte, a character code, a blend weight. -/
abbrev Byte := BitVec 8

/-- A Color12: `c12[11:8] = R`, `c12[7:4] = G`, `c12[3:0] = B` (R72). -/
abbrev Color12 := BitVec 12

/-- A window coordinate as a request word carries it: 14 bits (R88). -/
abbrev Coord14 := BitVec 14

/-- A 16-bit value: a font word, a window coordinate, a display register. -/
abbrev Half := BitVec 16

/-- A Color16 in the packed 5-6-5 layout (R73). -/
abbrev Color16 := BitVec 16

/-- A 32-bit value: a burst word, a pixel count, a response. -/
abbrev Word := BitVec 32

/-- A request head word (R87). -/
abbrev ReqWord := BitVec 64

end Sys2Proof
end

