-- ==== Sys2Proof/Config.lean ====
section
/-! DEFINITION. What is fixed for the life of an instance (`10_state.md` R34): the constants the spec gives
(R9), the parameters it names without a value (R10), and the switches between two readings of its source
(R11). A `Params` is plain data; `State` carries one that no step changes, so a claim is stated for every
value the parameters may have. -/

namespace Sys2Proof

/-! ### Constants with a value in the spec (R9) -/

def cellW : Nat := 5
def cellH : Nat := 10
def panelW : Half := 240
def panelH : Half := 320
/-- The code of the last record of the font table, which ends the index scan (R78). -/
def codeSentinel : Half := 0x7E
def codeFirst : Half := 0x20
/-- The number of elements of the FontIndex, one for each byte value (R52). -/
def indexSize : Nat := 256
/-- A fill yields after this many pixel pairs (R175). -/
def yieldPeriod : Nat := 50000

/-! ### Switches between two readings of the source (R11) -/

/-- `GREEN_FILL`: which green precision bits the converter fills (R121, R128; D8). -/
inductive GreenFill where
  | both
  | lsbOnly
  deriving DecidableEq, Repr, Inhabited

/-- `BLEND_CHANNELS`: the channels the blender mixes (R138, R146; D10). -/
inductive BlendChannels where
  | nibble
  | field
  deriving DecidableEq, Repr, Inhabited

/-- `MIX_MODE`: whether the mix has the bypass at its ends (R137, R145; D11). -/
inductive MixMode where
  | literal
  | exactEndpoints
  deriving DecidableEq, Repr, Inhabited

/-- The three switches together. -/
structure Readings where
  greenFill     : GreenFill
  blendChannels : BlendChannels
  mixMode       : MixMode
  deriving DecidableEq, Repr, Inhabited

/-- The default of each switch (R11). -/
def Config.readings : Readings := ⟨.both, .nibble, .literal⟩

/-! ### Controller opcode bytes (R84) -/

/-- The eight command bytes the spec names, `OP_*`. -/
structure OpcodeBytes where
  swreset  : Byte
  slpout   : Byte
  gammaset : Byte
  dispon   : Byte
  caset    : Byte
  paset    : Byte
  ramwr    : Byte
  madctl   : Byte
  deriving DecidableEq, Repr, Inhabited

def OpcodeBytes.toList (o : OpcodeBytes) : List Byte :=
  [o.swreset, o.slpout, o.gammaset, o.dispon, o.caset, o.paset, o.ramwr, o.madctl]

/-- The only constraint on the opcode bytes: none is 0 and the eight are distinct (R84). -/
def OpcodeBytes.ok (o : OpcodeBytes) : Bool := decide (o.toList.Nodup) && !o.toList.contains 0

/-- Opcode bytes that meet the constraint of R84. -/
structure Opcodes where
  bytes : OpcodeBytes
  ok    : bytes.ok = true
  deriving DecidableEq, Repr

/-- The default bytes of R84. PRESUMED (log 3): the spec gives them from general knowledge of the ILI9341. -/
def Config.opcodes : Opcodes := ⟨⟨0x01, 0x11, 0x26, 0x29, 0x2A, 0x2B, 0x2C, 0x36⟩, by decide⟩

/-! ### Tables and the other parameters without a value (R10) -/

/-- One font record: the code word and eight data words (F-GLYPH, R77). -/
abbrev FontRecord := Vector Half 9

/-- The parameters of R10 as plain data: `FONT`, `SHADE`, `INIT_SCRIPT`, `MADCTL_VAL`, the two settle delays
and the clock rate and mode. -/
structure TableData where
  font         : Vector FontRecord 95
  shade        : Vector Byte 16
  script       : List Byte
  madctl       : Vector Byte 4
  delayShortMs : Nat
  delayLongMs  : Nat
  spiClockHz   : Nat
  spiMode      : Nat
  deriving DecidableEq, Repr, Inhabited

/-- The code words of the font, in record order. -/
def TableData.codes (t : TableData) : List Half := t.font.toList.map fun r => r[0]

/-- What R151 asks of `FONT`: record 0 has code `0x20`; record 94 has code `0x7E`; every code `0x20` to `0x7E`
is the code of exactly one record; every code word has bits 15:7 zero. -/
def TableData.fontOk (t : TableData) : Bool :=
  t.codes[0]? == some codeFirst && t.codes[94]? == some codeSentinel
    && (List.range 95).all (fun k => t.codes.count (BitVec.ofNat 16 (0x20 + k)) == 1)
    && t.codes.all (fun c => c.extractLsb' 7 9 == 0)

/-- What R136 asks of `SHADE`: 0 at tone 0, 255 at tone 15, non-decreasing, and not the linear ramp. -/
def TableData.shadeOk (t : TableData) : Bool :=
  t.shade[0] == 0 && t.shade[15] == 255
    && (List.range 15).all (fun k => decide ((t.shade.toList.getD k 0).toNat ≤ (t.shade.toList.getD (k + 1) 0).toNat))
    && t.shade.toList != (List.range 16).map (fun k => BitVec.ofNat 8 (17 * k))

/-- Reading records from offset `p` (R82) reaches a zero opcode inside the string, every length byte and payload
lying inside it (R83). Each record takes at least two bytes, so the string's length bounds the records. -/
def scriptOkFrom (script : List Byte) : Nat → Nat → Bool
  | 0, _ => false
  | fuel + 1, p =>
    match script[p]? with
    | none => false
    | some op =>
      if op = 0 then true
      else
        match script[p + 1]? with
        | none => false
        | some lengthByte =>
          decide (p + 2 + (lengthByte.extractLsb' 0 7).toNat ≤ script.length)
            && scriptOkFrom script fuel (p + 2 + (lengthByte.extractLsb' 0 7).toNat)

/-- `INIT_SCRIPT` is well formed (R83). -/
def TableData.scriptOk (t : TableData) : Bool := scriptOkFrom t.script t.script.length 0

/-- The constraints the spec states on the parameters: R136, R151, R83, and the short settle delay is not longer
than the long one (R192). -/
def TableData.ok (t : TableData) : Bool :=
  t.fontOk && t.shadeOk && t.scriptOk && decide (t.delayShortMs ≤ t.delayLongMs)

/-- Parameters that meet their constraints. The spec shuts every other value out (R151, R83), so no meaning has a
case for one. -/
structure Tables where
  data : TableData
  ok   : data.ok = true
  deriving DecidableEq, Repr

/-! The example tables of `95_test_vectors.md`. They are INVENTED test inputs of the spec and not the hardware's
tables; here they show that the constraints can be met, and the tests use them. -/

def exampleRecord (code : Nat) (rows : List Half) : FontRecord :=
  Vector.ofFn fun k => (BitVec.ofNat 16 code :: rows).getD k.val 0

/-- `EX_FONT`: record `i` has code `0x20 + i`; the space, `A` and `B` have the rows the spec prints. -/
def exampleFont : Vector FontRecord 95 :=
  Vector.ofFn fun i =>
    if i.val = 0 then
      exampleRecord 0x20 [0xFFFF, 0xFFFF, 0xFFFF, 0xFFFF, 0xFFFF, 0xFFFF, 0xFFFF, 0xFFFF]
    else if i.val = 33 then
      exampleRecord 0x41 [0xFFFF, 0xF44F, 0x4FF4, 0x0FF0, 0x0000, 0x0770, 0x0FF0, 0xFFFF]
    else if i.val = 34 then
      exampleRecord 0x42 [0xFFFF, 0x000F, 0x0FF0, 0x000F, 0x0FF0, 0x0FF0, 0x000F, 0xFFFF]
    else exampleRecord (0x20 + i.val) []

def exampleTableData : TableData where
  font := exampleFont
  shade := #v[0, 8, 18, 30, 44, 60, 77, 95, 114, 134, 155, 176, 197, 218, 237, 255]
  script := [0x01, 0x80, 0x11, 0x80, 0x3A, 0x01, 0x55, 0x29, 0x80, 0x00]
  madctl := #v[0x48, 0x28, 0x88, 0xE8]
  delayShortMs := 1
  delayLongMs := 2
  spiClockHz := 0
  spiMode := 0

theorem exampleTableData_ok : exampleTableData.ok = true := by decide

def exampleTables : Tables := ⟨exampleTableData, exampleTableData_ok⟩

/-- What the parameters of R10 hold on the machine at hand: the spec gives no value, and nothing in Lean can
evaluate this one (log 4). -/
opaque Config.tableData : TableData

/-- The parameters after reset: any that meet the constraints. What follows about `Config.tables` is exactly what
follows from `TableData.ok`, since `Config.tableData` may be any such value; the other case only gives the type an
inhabitant. -/
def Config.tables : Tables :=
  if h : Config.tableData.ok = true then ⟨Config.tableData, h⟩ else exampleTables

/-! ### All parameters of an instance -/

/-- Everything that does not change while an instance lives (R34). -/
structure Params where
  tables   : Tables
  opcodes  : Opcodes
  readings : Readings
  deriving DecidableEq, Repr

def Config.params : Params := ⟨Config.tables, Config.opcodes, Config.readings⟩

end Sys2Proof
end

