-- ==== Sys2Proof/Syntax.lean ====
section
/-! DEFINITION. The operations of the block, one constructor for each row of `spec/opcode_table.json`:
the 24 operations of `30_encoding.md` R88 and the 8 wire command bytes of R84; and the form in which the
host presents one (R87, R71). Operands stand in the order of the textual syntax of R93. -/

namespace Sys2Proof

/-- One operation with its operands. Each operand has the width its field has in the encoding (R88), so an
operand out of range cannot be written; only the payload of `SEND_COMMAND` has a bound left to check
(`Sys2Proof.WellFormed`). -/
inductive Instr where
  -- command framer (41_command_framer.md)
  | startTransaction
  | endTransaction
  | sendCommand (code : Byte) (payload : List Byte)
  | writeCommand (code : Byte)
  | writeData8 (b : Byte)
  | writeData16 (w : Half)
  | writeData32 (w : Word)
  -- colour converter (42_color_converter.md)
  | toDisplayColor (c12 : Color12)
  | packBurstWord (a b : Color16)
  -- glyph blender (43_glyph_blender.md)
  | blend (tone : Nibble) (fore back : Color16)
  -- font table (44_font_table.md)
  | buildIndex
  | lookup (code : Byte)
  -- pixel streamer (45_pixel_streamer.md)
  | streamGlyph (char : Byte) (fore back : Color16)
  | streamFill (c16 : Color16) (n : Word)
  -- window cache, init sequencer and facade (46_window_init_facade.md)
  | setWindow (x1 x2 y1 y2 : Coord14)
  | initRun
  | beginDriver
  | setRotation (m : Byte)
  | fillScreen (c12 : Color12)
  | drawChar (col row char : Byte) (fore12 back12 : Color12)
  | getWidth
  | getHeight
  | getRows
  | getColumns
  -- wire command bytes (30_encoding.md R71 and R84): the head of a command frame
  | swreset
  | slpout
  | gammaset
  | dispon
  | caset
  | paset
  | ramwr
  | madctl
  deriving DecidableEq, Repr

/-- What the host presents to the block: a 64-bit request head word (F-REQ, R87), or the command byte of a
frame (F-FRAME, R71) offered to the framer. DESIGN CHOICE (log 2): the spec lists the eight wire command
bytes in its operation table and gives no request word that names one, so the model takes such a byte in
on a port form of its own. -/
inductive Request where
  | head (q : ReqWord)
  | wire (b : Byte)
  deriving DecidableEq, Repr

end Sys2Proof
end

