-- ==== Sys2Proof/WellFormed.lean ====
section
/-! DEFINITION. Which terms of `Instr` are operations: the types bound every operand but one. -/

namespace Sys2Proof

/-- The largest payload of `SEND_COMMAND` in the request encoding: 0 ≤ n ≤ 127 (R104, D27). -/
def maxPayload : Nat := 127

/-- An operation the request encoding can carry: a `SEND_COMMAND` has at most 127 payload bytes (R104). -/
def Instr.wellFormed : Instr → Bool
  | .sendCommand _ payload => decide (payload.length ≤ maxPayload)
  | .startTransaction | .endTransaction | .writeCommand _ | .writeData8 _ | .writeData16 _ | .writeData32 _
  | .toDisplayColor _ | .packBurstWord _ _ | .blend _ _ _ | .buildIndex | .lookup _ | .streamGlyph _ _ _
  | .streamFill _ _ | .setWindow _ _ _ _ | .initRun | .beginDriver | .setRotation _ | .fillScreen _
  | .drawChar _ _ _ _ _ | .getWidth | .getHeight | .getRows | .getColumns | .swreset | .slpout | .gammaset
  | .dispon | .caset | .paset | .ramwr | .madctl => true

end Sys2Proof
end

