-- ==== Sys2Proof/Decode.lean ====
section
/-! DEFINITION. The decoder of request words and command bytes (`30_encoding.md` R87, R88, R91), total and
rejecting by name, and the encoder written from the same table. -/

namespace Sys2Proof

/-- What the decoder makes of a request and the bytes waiting on the byte port. -/
inductive Decoded where
  /-- an operation, and the bytes left on the port -/
  | ok (i : Instr) (rest : List Byte)
  /-- a `SEND_COMMAND` whose payload bytes have not all been presented -/
  | awaitPayload
  /-- an unassigned operation number (R222 reason 1) -/
  | unknownOp
  /-- a reserved bit that is 1 (R222 reason 2) -/
  | reservedBits
  /-- a command byte that is none of the eight the spec names -/
  | unknownWireCommand
  deriving DecidableEq, Repr

/-! ### Fields of a request word (R87, R88) -/

/-- `q[lo + len - 1 : lo]`. -/
def field (q : ReqWord) (lo len : Nat) : BitVec len := q.extractLsb' lo len

/-- The operation number, `q[63:56]`. -/
def opNumber (q : ReqWord) : Byte := field q 56 8

/-- The payload count of a `SEND_COMMAND`, `n = q[14:8]`. -/
def payloadCount (q : ReqWord) : Nat := (field q 8 7).toNat

/-- An operation without payload, unless a bit of `q` under `reserved` is 1. -/
def accept (q reserved : ReqWord) (i : Instr) (bytes : List Byte) : Decoded :=
  if q &&& reserved = 0 then .ok i bytes else .reservedBits

/-- A `SEND_COMMAND`: its payload is the first `n` bytes of the port (R87). -/
def acceptSend (q reserved : ReqWord) (bytes : List Byte) : Decoded :=
  if q &&& reserved = 0 then
    if bytes.length < payloadCount q then .awaitPayload
    else .ok (.sendCommand (field q 0 8) (bytes.take (payloadCount q))) (bytes.drop (payloadCount q))
  else .reservedBits

/-- A request head word: the table of R88, with the bits it leaves unassigned as the reserved ones. -/
def decodeHead (q : ReqWord) (bytes : List Byte) : Decoded :=
  match opNumber q with
  | 0x01#8 => accept q 0x00FFFFFFFFFFFFFF .startTransaction bytes
  | 0x02#8 => accept q 0x00FFFFFFFFFFFFFF .endTransaction bytes
  | 0x03#8 => acceptSend q 0x00FFFFFFFFFF8000 bytes
  | 0x04#8 => accept q 0x00FFFFFFFFFFFF00 (.writeCommand (field q 0 8)) bytes
  | 0x05#8 => accept q 0x00FFFFFFFFFFFF00 (.writeData8 (field q 0 8)) bytes
  | 0x06#8 => accept q 0x00FFFFFFFFFF0000 (.writeData16 (field q 0 16)) bytes
  | 0x07#8 => accept q 0x00FFFFFF00000000 (.writeData32 (field q 0 32)) bytes
  | 0x10#8 => accept q 0x00FFFFFFFFFFF000 (.toDisplayColor (field q 0 12)) bytes
  | 0x11#8 => accept q 0x00FFFFFF00000000 (.packBurstWord (field q 0 16) (field q 16 16)) bytes
  | 0x18#8 => accept q 0x00FFFFF000000000 (.blend (field q 32 4) (field q 16 16) (field q 0 16)) bytes
  | 0x20#8 => accept q 0x00FFFFFFFFFFFFFF .buildIndex bytes
  | 0x21#8 => accept q 0x00FFFFFFFFFFFF00 (.lookup (field q 0 8)) bytes
  | 0x28#8 => accept q 0x00FFFF0000000000 (.streamGlyph (field q 32 8) (field q 16 16) (field q 0 16)) bytes
  | 0x29#8 => accept q 0x00FF000000000000 (.streamFill (field q 32 16) (field q 0 32)) bytes
  | 0x30#8 => accept q 0 (.setWindow (field q 42 14) (field q 28 14) (field q 14 14) (field q 0 14)) bytes
  | 0x31#8 => accept q 0x00FFFFFFFFFFFFFF .initRun bytes
  | 0x38#8 => accept q 0x00FFFFFFFFFFFFFF .beginDriver bytes
  | 0x39#8 => accept q 0x00FFFFFFFFFFFF00 (.setRotation (field q 0 8)) bytes
  | 0x3A#8 => accept q 0x00FFFFFFFFFFF000 (.fillScreen (field q 0 12)) bytes
  | 0x3B#8 => accept q 0x00000000F000F000 (.drawChar (field q 48 8) (field q 40 8) (field q 32 8) (field q 16 12) (field q 0 12)) bytes
  | 0x3C#8 => accept q 0x00FFFFFFFFFFFFFF .getWidth bytes
  | 0x3D#8 => accept q 0x00FFFFFFFFFFFFFF .getHeight bytes
  | 0x3E#8 => accept q 0x00FFFFFFFFFFFFFF .getRows bytes
  | 0x3F#8 => accept q 0x00FFFFFFFFFFFFFF .getColumns bytes
  | _ => .unknownOp

/-- A command byte offered to the framer, named by the opcode bytes in force (R84). -/
def decodeWire (ops : Opcodes) (b : Byte) (bytes : List Byte) : Decoded :=
  if b = ops.bytes.swreset then .ok .swreset bytes
  else if b = ops.bytes.slpout then .ok .slpout bytes
  else if b = ops.bytes.gammaset then .ok .gammaset bytes
  else if b = ops.bytes.dispon then .ok .dispon bytes
  else if b = ops.bytes.caset then .ok .caset bytes
  else if b = ops.bytes.paset then .ok .paset bytes
  else if b = ops.bytes.ramwr then .ok .ramwr bytes
  else if b = ops.bytes.madctl then .ok .madctl bytes
  else .unknownWireCommand

/-- The decoder: every request word and every byte has an answer, and each request is decoded on its own (R265). -/
def decode (ops : Opcodes) (r : Request) (bytes : List Byte) : Decoded :=
  match r with
  | .head q => decodeHead q bytes
  | .wire b => decodeWire ops b bytes

/-! ### The encoder -/

/-- A head word with operation number `op` and the given value of `q[55:0]` (R87). -/
def headWord (op operands : Nat) : Request := .head (BitVec.ofNat 64 (op * 2 ^ 56 + operands))

/-- The request that names an operation, and the payload bytes that follow it (R88, R84). -/
def encode (ops : Opcodes) : Instr → Request × List Byte
  | .startTransaction => (headWord 0x01 0, [])
  | .endTransaction => (headWord 0x02 0, [])
  | .sendCommand code payload => (headWord 0x03 (code.toNat + payload.length * 2 ^ 8), payload)
  | .writeCommand code => (headWord 0x04 code.toNat, [])
  | .writeData8 b => (headWord 0x05 b.toNat, [])
  | .writeData16 w => (headWord 0x06 w.toNat, [])
  | .writeData32 w => (headWord 0x07 w.toNat, [])
  | .toDisplayColor c12 => (headWord 0x10 c12.toNat, [])
  | .packBurstWord a b => (headWord 0x11 (a.toNat + b.toNat * 2 ^ 16), [])
  | .blend tone fore back => (headWord 0x18 (back.toNat + fore.toNat * 2 ^ 16 + tone.toNat * 2 ^ 32), [])
  | .buildIndex => (headWord 0x20 0, [])
  | .lookup code => (headWord 0x21 code.toNat, [])
  | .streamGlyph char fore back => (headWord 0x28 (back.toNat + fore.toNat * 2 ^ 16 + char.toNat * 2 ^ 32), [])
  | .streamFill c16 n => (headWord 0x29 (n.toNat + c16.toNat * 2 ^ 32), [])
  | .setWindow x1 x2 y1 y2 =>
    (headWord 0x30 (y2.toNat + y1.toNat * 2 ^ 14 + x2.toNat * 2 ^ 28 + x1.toNat * 2 ^ 42), [])
  | .initRun => (headWord 0x31 0, [])
  | .beginDriver => (headWord 0x38 0, [])
  | .setRotation m => (headWord 0x39 m.toNat, [])
  | .fillScreen c12 => (headWord 0x3A c12.toNat, [])
  | .drawChar col row char fore12 back12 =>
    (headWord 0x3B (back12.toNat + fore12.toNat * 2 ^ 16 + char.toNat * 2 ^ 32 + row.toNat * 2 ^ 40
      + col.toNat * 2 ^ 48), [])
  | .getWidth => (headWord 0x3C 0, [])
  | .getHeight => (headWord 0x3D 0, [])
  | .getRows => (headWord 0x3E 0, [])
  | .getColumns => (headWord 0x3F 0, [])
  | .swreset => (.wire ops.bytes.swreset, [])
  | .slpout => (.wire ops.bytes.slpout, [])
  | .gammaset => (.wire ops.bytes.gammaset, [])
  | .dispon => (.wire ops.bytes.dispon, [])
  | .caset => (.wire ops.bytes.caset, [])
  | .paset => (.wire ops.bytes.paset, [])
  | .ramwr => (.wire ops.bytes.ramwr, [])
  | .madctl => (.wire ops.bytes.madctl, [])

/-! ### Words as the opcode table numbers their bits -/

/-- The request a table word stands for: a row of 8 bits is a command byte, a row of 64 bits a head word. -/
def tableRequest (nbits w : Nat) : Request :=
  if nbits ≤ 8 then .wire (BitVec.ofNat 8 w) else .head (BitVec.ofNat 64 w)

/-- The payload bytes that follow a table word, all 0: the table gives the payload of `SEND_COMMAND` no bits. -/
def tablePayload : Request → List Byte
  | .head q => if opNumber q = 0x03 then List.replicate (payloadCount q) 0 else []
  | .wire _ => []

/-- The operation the decoder reads from a table word, with the default opcode bytes. -/
def decodeTableWord (nbits w : Nat) : Option Instr :=
  match decode Config.opcodes (tableRequest nbits w) (tablePayload (tableRequest nbits w)) with
  | .ok i _ => some i
  | .awaitPayload | .unknownOp | .reservedBits | .unknownWireCommand => none

end Sys2Proof
end

