-- ==== Sys2Proof/Machine/State.lean ====
section
/-! DEFINITION. The state of the block: every piece `10_state.md` gives it, as plain data, and its value after
reset (R35). -/

namespace Sys2Proof.Machine

/-! ### Lines and events -/

/-- Chip-select as last driven (R24). -/
inductive ChipSelect where
  | deasserted
  | asserted
  deriving DecidableEq, Repr

/-- The command/data selector as last driven (R24). -/
inductive Selector where
  | unknown
  | cmd
  | data
  deriving DecidableEq, Repr

/-- The block's output events (R13). -/
inductive Event where
  /-- begin an exclusive transaction at a clock rate and mode -/
  | busBegin (clockHz mode : Nat)
  | busEnd
  | csAssert
  | csDeassert
  /-- command/data selector to command -/
  | dcCmd
  /-- selector to data -/
  | dcData
  | tx8 (b : Byte)
  | tx16 (w : Half)
  | tx32 (w : Word)
  /-- the host's millisecond delay primitive -/
  | delay (ms : Nat)
  /-- the host's cooperative-yield primitive -/
  | yield
  deriving DecidableEq, Repr

/-! ### The parts of the state -/

/-- Framer state, persistent across operations (R24). -/
structure Framer where
  /-- `TXN`: a transaction bracket is open. -/
  txn : Bool
  /-- `CS` -/
  cs  : ChipSelect
  /-- `DC` -/
  dc  : Selector
  deriving DecidableEq, Repr

/-- DisplayState (R26). -/
structure DisplayState where
  rotation : BitVec 2
  width    : Half
  height   : Half
  rows     : Half
  columns  : Half
  deriving DecidableEq, Repr

/-- The AddressWindow cache: `WX1`, `WX2`, `WXV`, `WY1`, `WY2`, `WYV` (R29). -/
structure AddressWindow where
  x1 : Half
  x2 : Half
  xv : Bool
  y1 : Half
  y2 : Half
  yv : Bool
  deriving DecidableEq, Repr

/-- The memo register of a glyph scan row: `MEMO_VALID`, `MEMO_TONE`, `MEMO_COLOR` (R22). -/
structure Memo where
  valid : Bool
  tone  : Nibble
  color : Color16
  deriving DecidableEq, Repr

/-- Holding registers of the streamer and the blender, dead between operations (R21). -/
structure Holding where
  fore    : Color16
  back    : Color16
  char    : Byte
  glyph   : Byte
  rowWord : Half
  tone    : Nibble
  border  : Color16
  fill    : Color16
  deriving DecidableEq, Repr

/-- Sequencing counters, dead between operations (R23). -/
structure Counters where
  /-- `ROW`: scan row of the glyph cell, 0 to 9 -/
  row  : Fin 10
  /-- `COL`: pixel within the row, 0 to 4 -/
  col  : Fin 5
  /-- `PAIR`: pixel pairs sent by a fill, 0 to n/2 -/
  pair : Word
  /-- `SPTR`: byte offset of the current script record -/
  sptr : Nat
  /-- `SCAN`: font record being indexed, 0 to 94 -/
  scan : Fin 95
  deriving DecidableEq, Repr

/-- The FontIndex, the block's one writable memory (R50, R52), as a list of (element address, byte) pairs in one
canonical form: addresses strictly rising, and no entry equal to what an unlisted address reads as, which is the
reset content (`Sys2Proof.Machine.indexDefault`). -/
abbrev Memory := List Host.Cell

/-! ### The state -/

structure State where
  /-- Requests the host has presented and the block has not taken, oldest first (R2, R87). DESIGN CHOICE (log 8): the
  queue, the byte port's and `resp` are the model's own. -/
  requests    : List Request
  /-- Payload bytes waiting on the separate byte port (R87). -/
  bytePort    : List Byte
  /-- The response of the last completed operation; none if it returns nothing (R89). -/
  resp        : Option Word
  framer      : Framer
  display     : DisplayState
  /-- `INITIALIZED` (R28) -/
  initialized : Bool
  window      : AddressWindow
  /-- `INDEX` (R52) -/
  index       : Memory
  memo        : Memo
  hold        : Holding
  count       : Counters
  /-- The wire trace `W`, oldest event first (R32). -/
  trace       : List Event
  /-- The parameters of the step relation, which no operation changes (R34). -/
  params      : Params
  deriving DecidableEq, Repr

/-! ### Why a step may stop -/

/-- Faults. The block raises no exception of any kind (R215); the one reason here is the model's own. -/
inductive Fault where
  /-- A glyph row fetch would leave the font table: the FontIndex holds a value above 94 for the character. Raised by
  `STREAM_GLYPH` and by an unclipped `DRAW_CHAR`; safe. The spec shows it cannot happen (R158), and it does not in a
  state a run reaches; R50 gives a read outside the table no meaning. -/
  | fontRecordOutOfRange
  deriving DecidableEq, Repr

/-- Refusals: a request to which the source gives no meaning (R222). A refused operation emits no event, writes no
state and returns no value; all of them are safe, since no claim about a next state follows from one. -/
inductive Refusal where
  /-- R222 reason 1. Raised by the request decoder on an unassigned operation number; safe. -/
  | unknownOp
  /-- R222 reason 2. Raised by the request decoder on a reserved bit that is 1; safe. -/
  | reservedBits
  /-- R222 reason 3. Raised with a transaction open by `START_TRANSACTION`, `SEND_COMMAND`, `INIT_RUN`, `BEGIN`,
  `SET_ROTATION`, `FILL_SCREEN` and an unclipped `DRAW_CHAR`; safe. -/
  | nestedTransaction
  /-- R222 reason 4. Raised with no transaction open by `END_TRANSACTION`, `WRITE_COMMAND`, `WRITE_DATA8/16/32`,
  `SET_WINDOW`, `STREAM_GLYPH` and `STREAM_FILL`; safe. -/
  | noTransaction
  /-- R222 reason 5. Raised with the selector not at data by `WRITE_DATA8/16/32`, `STREAM_GLYPH` and `STREAM_FILL`;
  safe. -/
  | selectorUnknown
  /-- R222 reason 6. Raised by `STREAM_FILL` on an odd pixel count; safe. -/
  | oddPixelCount
  /-- The model's own (log 2). Raised by the decoder on a byte offered as a frame's command byte that is none of the
  eight the spec names; safe. -/
  | unknownWireCommand
  /-- An instruction that has no meaning yet, rejected by name; safe. -/
  | notModelled (mnemonic : String)
  deriving DecidableEq, Repr

/-! ### Reset -/

/-- The display registers after reset: rotation 0, 240 × 320 pixels, 32 rows, 48 columns (R26, R35). -/
def DisplayState.reset : DisplayState := ⟨0, 240, 320, 32, 48⟩

/-- No transaction open, chip-select deasserted, selector unknown (R35). -/
def Framer.reset : Framer := ⟨false, .deasserted, .unknown⟩

/-- Both valid bits false (R35). DESIGN CHOICE (log 1): the coordinates are unspecified, and 0 here. -/
def AddressWindow.reset : AddressWindow := ⟨0, 0, false, 0, 0, false⟩

/-- `MEMO_VALID` false (R35). DESIGN CHOICE (log 1): tone and colour are unspecified, and 0 here. -/
def Memo.reset : Memo := ⟨false, 0, 0⟩

/-- DESIGN CHOICE (log 1): the holding registers are unspecified at reset (R35), and 0 here. -/
def Holding.reset : Holding := ⟨0, 0, 0, 0, 0, 0, 0, 0⟩

/-- DESIGN CHOICE (log 1): the counters are unspecified at reset (R35), and 0 here. -/
def Counters.reset : Counters := ⟨0, 0, 0, 0, 0⟩

/-- The block after reset, with given parameters: the table of R35. The FontIndex lists nothing, so every element
reads as its reset content, the built index (R153). -/
def State.resetWith (p : Params) : State where
  requests    := []
  bytePort    := []
  resp        := none
  framer      := Framer.reset
  display     := DisplayState.reset
  initialized := false
  window      := AddressWindow.reset
  index       := []
  memo        := Memo.reset
  hold        := Holding.reset
  count       := Counters.reset
  trace       := []
  params      := p

/-- The block right after reset. -/
def State.reset : State := State.resetWith Config.params

end Sys2Proof.Machine
end

