-- ==== Sys2Proof/Machine/Flags.lean ====
section
/-! DEFINITION. The one-bit flags (`10_state.md` R25: `TXN`, `MEMO_VALID`, `INITIALIZED`, `WXV`, `WYV`) and the tests an
operation makes at its head (`60_exceptions.md` R220, R222). There are no condition codes: no operation writes a flag
as a side effect of arithmetic. -/

namespace Sys2Proof.Machine

/-- What an operation ends in (R16). -/
abbrev Outcome := Host.Outcome State Fault Refusal

/-! ### Head tests -/

/-- The operation needs an open bracket (R222 reason 4). -/
def State.inBracket (s : State) (k : Outcome) : Outcome :=
  if s.framer.txn then k else .refused .noTransaction

/-- The operation opens a bracket of its own (R222 reason 3). -/
def State.outOfBracket (s : State) (k : Outcome) : Outcome :=
  if s.framer.txn then .refused .nestedTransaction else k

/-- The operation sends data: an open bracket first, then the selector at data (R105, R173). -/
def State.inDataMode (s : State) (k : Outcome) : Outcome :=
  s.inBracket (if s.framer.dc = .data then k else .refused .selectorUnknown)

/-- The pixel count of a fill is even (R174, R222 reason 6). -/
def evenCount (n : Word) (k : Outcome) : Outcome :=
  if n.getLsbD 0 then .refused .oddPixelCount else k

/-- The cell lies outside the grid: an unsigned comparison, the operands zero-extended (R201, R263). -/
def State.clips (s : State) (col row : Byte) : Bool :=
  decide (s.display.columns ≤ col.setWidth 16) || decide (s.display.rows ≤ row.setWidth 16)

/-! ### Valid bits -/

/-- The column pair is the one last programmed (R187). -/
def AddressWindow.hasColumns (w : AddressWindow) (x1 x2 : Half) : Bool := w.xv && w.x1 == x1 && w.x2 == x2

/-- The row pair is the one last programmed (R187). -/
def AddressWindow.hasRows (w : AddressWindow) (y1 y2 : Half) : Bool := w.yv && w.y1 == y1 && w.y2 == y2

/-- The memo holds the colour of this tone (R168). -/
def Memo.has (m : Memo) (tone : Nibble) : Bool := m.valid && tone == m.tone

end Sys2Proof.Machine
end

