-- ==== Sys2Proof/Machine/Operands.lean ====
section
/-! DEFINITION. Operand forms: the fields of the data formats (`30_encoding.md` R72 to R79), the packed values, and
the addressing forms of the read-only tables (`47_laws_and_sequencing.md` R269). -/

namespace Sys2Proof.Machine

/-! ### Color12 and Color16 fields -/

/-- `c12[11:8]` (R72). -/
def red12 (c : Color12) : Nibble := c.extractLsb' 8 4
/-- `c12[7:4]` -/
def green12 (c : Color12) : Nibble := c.extractLsb' 4 4
/-- `c12[3:0]` -/
def blue12 (c : Color12) : Nibble := c.extractLsb' 0 4

/-- Three nibbles as a Color12. -/
def color12 (r g b : Nibble) : Color12 := r ++ g ++ b

/-- The nibble bits of each field of a Color16, `c16[15:12]`, `c16[10:7]`, `c16[4:1]` (R73, R138). -/
def red4 (c : Color16) : Nibble := c.extractLsb' 12 4
def green4 (c : Color16) : Nibble := c.extractLsb' 7 4
def blue4 (c : Color16) : Nibble := c.extractLsb' 1 4

/-- The whole fields of a Color16, `c16[15:11]`, `c16[10:5]`, `c16[4:0]` (R73). -/
def red5 (c : Color16) : BitVec 5 := c.extractLsb' 11 5
def green6 (c : Color16) : BitVec 6 := c.extractLsb' 5 6
def blue5 (c : Color16) : BitVec 5 := c.extractLsb' 0 5

/-- A Color16 from its three fields (R73). -/
def color16 (r5 : BitVec 5) (g6 : BitVec 6) (b5 : BitVec 5) : Color16 := r5 ++ g6 ++ b5

/-! ### Byte order -/

/-- `{x[7:0], x[15:8]}` (R12). -/
def swap16 (x : Half) : Half := x.extractLsb' 0 8 ++ x.extractLsb' 8 8

/-- The high byte of a 16-bit value. -/
def highByte (x : Half) : Byte := x.extractLsb' 8 8
/-- The low byte of a 16-bit value. -/
def lowByte (x : Half) : Byte := x.extractLsb' 0 8

/-! ### Tables -/

/-- `FONT[i].code`, element `9*i` (R51). -/
def fontCode (t : Tables) (i : Fin 95) : Half := t.data.font[i][0]

/-- `glyph_row(i, k) = FONT[9*i + k]`, `k` from 1 to 8 (R157). -/
def glyphRow (t : Tables) (i : Fin 95) (k : Fin 9) : Half := t.data.font[i][k]

/-- `tone_of(word, j) = word[15 - 4j : 12 - 4j]`, `j = 0` leftmost (R79, R157). -/
def toneOf (word : Half) (j : Fin 4) : Nibble := word.extractLsb' (12 - 4 * j.val) 4

/-- `SHADE[tone]` (R53). -/
def shadeOf (t : Tables) (tone : Nibble) : Byte := t.data.shade[tone.toNat]'(tone.isLt)

/-- `MADCTL_VAL[r]` (R86). -/
def madctlOf (t : Tables) (r : BitVec 2) : Byte := t.data.madctl[r.toNat]'(r.isLt)

/-- The payload of the script record at offset `p`: `n` bytes from `p + 2` (R82). -/
def scriptPayload (t : Tables) (p n : Nat) : List Byte := (t.data.script.drop (p + 2)).take n

/-- The payload length of a script record, `lengthByte[6:0]` (R82). -/
def payloadLength (lengthByte : Byte) : Nat := (lengthByte.extractLsb' 0 7).toNat

/-- The delay flag of a script record, `lengthByte[7]` (R82). -/
def delayFlag (lengthByte : Byte) : Bool := lengthByte.getLsbD 7

/-- The record whose code is `c`, and record 0 where none has it: the built index as a function of `FONT` (R153). -/
def builtIndex (t : Tables) (c : Byte) : Fin 95 :=
  match (List.finRange 95).find? (fun i => fontCode t i == c.setWidth 16) with
  | some i => i
  | none => 0

/-- A record number as the FontIndex holds it, in a byte (R52). -/
def recordByte (i : Fin 95) : Byte := BitVec.ofNat 8 i.val

/-! ### Geometry -/

/-- The first column and row of a cell, `5 * col` and `10 * row` (R199). -/
def cellX (col : Byte) : Half := BitVec.ofNat 16 (cellW * col.toNat)
def cellY (row : Byte) : Half := BitVec.ofNat 16 (cellH * row.toNat)

/-- `m mod 4` (R197). -/
def rotationOf (m : Byte) : BitVec 2 := m.extractLsb' 0 2

/-- Width and height in each rotation (R194). The portrait pair is at 0 and 2. PRESUMED (log 5): the spec takes the
numbering of rotations 1 to 3 from general knowledge. -/
def dimensions (r : BitVec 2) : Half × Half :=
  if r = 0 ∨ r = 2 then (panelW, panelH) else (panelH, panelW)

/-- The display registers in a rotation: rows and columns are height and width over the cell size (R194, R27). -/
def displayFor (r : BitVec 2) : DisplayState where
  rotation := r
  width := (dimensions r).1
  height := (dimensions r).2
  rows := (dimensions r).2 / BitVec.ofNat 16 cellH
  columns := (dimensions r).1 / BitVec.ofNat 16 cellW

/-- `WIDTH * HEIGHT` as a pixel count (R200). -/
def pixelCount (d : DisplayState) : Word := d.width.setWidth 32 * d.height.setWidth 32

end Sys2Proof.Machine
end

