-- ==== Sys2Proof/Machine/Ops.lean ====
section
/-! DEFINITION. The named operations over the state that the meanings share: the wire, the response port, the FontIndex,
the framer's steps, and taking a request.

There is no operation that takes an exception and none that returns from one: the block raises no exception of any kind
(R215), there is no trap entry (R221) and no trap return (R223). A request with no meaning is refused (R222). -/

namespace Sys2Proof.Machine

/-! ### The wire and the response port -/

/-- Appends events to `W` (R13). -/
def State.emits (s : State) (es : List Event) : State := { s with trace := s.trace ++ es }

/-- `emit(e)`. -/
def State.emit (s : State) (e : Event) : State := s.emits [e]

/-- The operation completes and returns nothing (R89). -/
def State.finish (s : State) : State := { s with resp := none }

/-- The operation completes and returns a value in the u32 response, unused bits 0 (R89). -/
def State.respond {n : Nat} (s : State) (v : BitVec n) : State := { s with resp := some (v.setWidth 32) }

/-! ### The FontIndex -/

/-- What an unlisted element reads as: its content after reset, which is the built index (R35, R153; DEDUCED, log 10). -/
def indexDefault (t : Tables) (a : Nat) : Byte := recordByte (builtIndex t (BitVec.ofNat 8 a))

/-- The entry of an address, if one is listed. -/
def Memory.find? : Memory → Nat → Option Byte
  | [], _ => none
  | (b, v) :: rest, a => if a = b then some v else Memory.find? rest a

/-- Reads one element; `d` says what an unlisted address reads as. -/
def Memory.read (d : Nat → Byte) (m : Memory) (a : Nat) : Byte := (m.find? a).getD (d a)

/-- Writes one element and keeps the canonical form: a value an unlisted address reads as anyway is not listed. -/
def Memory.write (d : Nat → Byte) : Memory → Nat → Byte → Memory
  | [], a, v => if v = d a then [] else [(a, v)]
  | (b, w) :: rest, a, v =>
    if a < b then (if v = d a then (b, w) :: rest else (a, v) :: (b, w) :: rest)
    else if a = b then (if v = d a then rest else (a, v) :: rest)
    else (b, w) :: Memory.write d rest a v

/-- The addresses of `m` rise strictly and start at `lo` or above; each is an element of the FontIndex and no entry is what
an unlisted address reads as. -/
def Memory.wfFrom (d : Nat → Byte) : Nat → Memory → Bool
  | _, [] => true
  | lo, (a, v) :: rest => decide (lo ≤ a) && decide (a < indexSize) && v != d a && Memory.wfFrom d (a + 1) rest

/-- The canonical form. -/
def Memory.wf (d : Nat → Byte) (m : Memory) : Bool := Memory.wfFrom d 0 m

/-- `MemRead(INDEX, code, 8)` (R155). -/
def State.indexRead (s : State) (code : Byte) : Byte :=
  Memory.read (indexDefault s.params.tables) s.index code.toNat

/-- `MemWrite(INDEX, key, 8, v)` (R152). -/
def State.indexWrite (s : State) (key v : Byte) : State :=
  { s with index := Memory.write (indexDefault s.params.tables) s.index key.toNat v }

/-- The record a glyph row fetch of a character reads: none where the FontIndex holds a value above 94, which no
state a run reaches does (R158; DEDUCED, log 11). -/
def State.glyphRecord (s : State) (code : Byte) : Option (Fin 95) :=
  match s.index.find? code.toNat with
  | none => some (builtIndex s.params.tables code)
  | some v => if h : v.toNat < 95 then some ⟨v.toNat, h⟩ else none

/-! ### The framer's steps, without their head tests -/

/-- `START_TRANSACTION` once its test has passed (R101). -/
def State.startTransaction (s : State) : State :=
  { s.emits [.busBegin s.params.tables.data.spiClockHz s.params.tables.data.spiMode, .csAssert] with
    framer := { s.framer with txn := true, cs := .asserted } }

/-- `END_TRANSACTION` once its test has passed (R102). -/
def State.endTransaction (s : State) : State :=
  { s.emits [.csDeassert, .busEnd] with framer := { s.framer with txn := false, cs := .deasserted } }

/-- `WRITE_COMMAND` once its test has passed: the selector goes to command and back to data (R103). -/
def State.writeCommand (s : State) (code : Byte) : State :=
  { s.emits [.dcCmd, .tx8 code, .dcData] with framer := { s.framer with dc := .data } }

/-- `SEND_COMMAND` once its test has passed: a whole frame in a bracket of its own (R104). -/
def State.sendCommand (s : State) (code : Byte) (payload : List Byte) : State :=
  (((s.startTransaction).writeCommand code).emits (payload.map .tx8)).endTransaction

/-- A wire command byte: the head of a frame (R71), sent in the framing way in force (R100). With a bracket open it is the
in-bracket form, `WRITE_COMMAND`, and the data writes that follow are its payload; with none open it is the
stand-alone form, `SEND_COMMAND` with no payload. DESIGN CHOICE (log 2). -/
def State.sendFrameHead (s : State) (code : Byte) : State :=
  if s.framer.txn then s.writeCommand code else s.sendCommand code []

/-! ### Taking a request -/

/-- The next request, decoded. -/
inductive Fetched where
  /-- no request can be taken: none is pending, or its payload bytes have not all been presented -/
  | idle
  /-- an operation, and the state with its request and payload bytes taken from the ports -/
  | run (i : Instr) (s : State)
  /-- a request the decoder refuses -/
  | bad (r : Refusal)

/-- Takes the oldest pending request (R2). The block waits while there is none (R35), and while payload bytes of a
`SEND_COMMAND` are missing (DEDUCED, log 6). -/
def State.fetch (s : State) : Fetched :=
  match s.requests with
  | [] => .idle
  | r :: later =>
    match decode s.params.opcodes r s.bytePort with
    | .ok i bytes => .run i { s with requests := later, bytePort := bytes }
    | .awaitPayload => .idle
    | .unknownOp => .bad .unknownOp
    | .reservedBits => .bad .reservedBits
    | .unknownWireCommand => .bad .unknownWireCommand

/-- Puts a request and its payload bytes at the front of the ports, so that it is taken next. -/
def State.present (s : State) (r : Request) (payload : List Byte) : State :=
  { s with requests := r :: s.requests, bytePort := payload ++ s.bytePort }

end Sys2Proof.Machine
end

