-- ==== Sys2Proof/Machine/Init.lean ====
section
/-! DEFINITION. The init sequencer (`46_window_init_facade.md` section 3). -/

namespace Sys2Proof.Machine

/-- The settle delay after a record: the long one after sleep-out and display-on, else the short one if flagged (R192). -/
def settle (p : Params) (op : Byte) (flag : Bool) : List Event :=
  if op = p.opcodes.bytes.slpout ∨ op = p.opcodes.bytes.dispon then [.delay p.tables.data.delayLongMs]
  else if flag then [.delay p.tables.data.delayShortMs]
  else []

/-- `SPTR <- p`. -/
def State.setSptr (s : State) (p : Nat) : State := { s with count := { s.count with sptr := p } }

/-- The record of the script at offset `SPTR`, with opcode `op`: its frame, its settle delay, and the pointer moves on to the
next record (R191). -/
def State.replayRecord (s : State) (op lengthByte : Byte) : State :=
  ((s.sendCommand op (scriptPayload s.params.tables s.count.sptr (payloadLength lengthByte))).emits
    (settle s.params op (delayFlag lengthByte))).setSptr (s.count.sptr + 2 + payloadLength lengthByte)

/-- Replays the records from `SPTR` on until the zero opcode (R191). The first argument bounds the records left; the
script is well formed (`TableData.scriptOk`), so the terminator comes first and nothing past the string is read. -/
def State.replayScript : Nat → State → State
  | 0, s => s
  | left + 1, s =>
    match s.params.tables.data.script[s.count.sptr]? with
    | none => s
    | some op =>
      if op = 0 then s
      else
        match s.params.tables.data.script[s.count.sptr + 1]? with
        | none => s
        | some lengthByte => State.replayScript left (s.replayRecord op lengthByte)

/-- `INIT_RUN` once its test has passed (R191). -/
def State.initRun (s : State) : State :=
  State.replayScript s.params.tables.data.script.length (s.setSptr 0)

/-- `INIT_RUN()` (R191). -/
def execInitRun (s : State) : Outcome := s.outOfBracket (.next s.initRun.finish)

end Sys2Proof.Machine
end

