-- ==== Sys2Proof/Machine/Color.lean ====
section
/-! DEFINITION. The colour converter (`42_color_converter.md`). -/

namespace Sys2Proof.Machine

/-- The green field: the nibble with its bit 0 in both precision bits (R121), or in the least significant one alone
(R128). -/
def green6Of (fill : GreenFill) (g : Nibble) : BitVec 6 :=
  match fill with
  | .both => g ++ g.extractLsb' 0 1 ++ g.extractLsb' 0 1
  | .lsbOnly => g ++ 0#1 ++ g.extractLsb' 0 1

/-- A red or blue field: the nibble with its bit 0 as the precision bit (R121). -/
def field5Of (c : Nibble) : BitVec 5 := c ++ c.extractLsb' 0 1

/-- The conversion of R121: bit copying, not arithmetic (R122). -/
def toDisplayColor (fill : GreenFill) (c12 : Color12) : Color16 :=
  color16 (field5Of (red12 c12)) (green6Of fill (green12 c12)) (field5Of (blue12 c12))

/-- `swap16(a) | (swap16(b) << 16)`, that is `{b[7:0], b[15:8], a[7:0], a[15:8]}` (R126). -/
def packBurstWord (a b : Color16) : Word := swap16 b ++ swap16 a

/-- `TO_DISPLAY_COLOR(c12)` (R121). -/
def execToDisplayColor (c12 : Color12) (s : State) : Outcome :=
  .next (s.respond (toDisplayColor s.params.readings.greenFill c12))

/-- `PACK_BURST_WORD(a, b)` (R126). -/
def execPackBurstWord (a b : Color16) (s : State) : Outcome := .next (s.respond (packBurstWord a b))

end Sys2Proof.Machine
end

