-- ==== Sys2Proof/Machine/Blender.lean ====
section
/-! DEFINITION. The glyph blender (`43_glyph_blender.md`). -/

namespace Sys2Proof.Machine

/-- `((255 - w) * f + w * b) >> 8`, the products and the sum exact, the shift truncating (R137, R262). -/
def mix (w f b : Nat) : Nat := ((255 - w) * f + w * b) / 2 ^ 8

/-- The channel mix under a mix mode: the formula of R137, or the formula with the bypass of R145. -/
def mixWith (mode : MixMode) (w : Byte) (f b : Nat) : Nat :=
  match mode with
  | .literal => mix w.toNat f b
  | .exactEndpoints =>
    if w = 0 then f else if w = 255 then b else if f = b then f else mix w.toNat f b

/-- The mix of two channels of the same width, in that width: no result is wider than its operands (R137, R146). -/
def mixChannel {n : Nat} (mode : MixMode) (w : Byte) (f b : BitVec n) : BitVec n :=
  BitVec.ofNat n (mixWith mode w f.toNat b.toNat)

/-- Step 3 with whole fields as channels (R146): red and blue stand as they are, and an odd green sets the green
precision mask. -/
def restoreGreen (fill : GreenFill) (g : BitVec 6) : BitVec 6 :=
  match fill with
  | .both => if g.getLsbD 0 then g ||| 0x03 else g
  | .lsbOnly => g

/-- The blend with a given weight: the three channels mixed independently and the colour reassembled (R139, R146). -/
def blendWeighted (r : Readings) (w : Byte) (fore back : Color16) : Color16 :=
  match r.blendChannels with
  | .nibble =>
    toDisplayColor r.greenFill (color12 (mixChannel r.mixMode w (red4 fore) (red4 back))
      (mixChannel r.mixMode w (green4 fore) (green4 back)) (mixChannel r.mixMode w (blue4 fore) (blue4 back)))
  | .field =>
    color16 (mixChannel r.mixMode w (red5 fore) (red5 back))
      (restoreGreen r.greenFill (mixChannel r.mixMode w (green6 fore) (green6 back)))
      (mixChannel r.mixMode w (blue5 fore) (blue5 back))

/-- `BLEND` as a function of its operands and the parameters (R135, R139). -/
def blend (p : Params) (tone : Nibble) (fore back : Color16) : Color16 :=
  blendWeighted p.readings (shadeOf p.tables tone) fore back

/-- `BLEND(tone, fore, back)` (R139). It latches `FORE` and `BACK` (R21). -/
def execBlend (tone : Nibble) (fore back : Color16) (s : State) : Outcome :=
  .next ({ s with hold := { s.hold with fore := fore, back := back } }.respond (blend s.params tone fore back))

end Sys2Proof.Machine
end

