-- ==== Sys2Proof/Machine/Streamer.lean ====
section
/-! DEFINITION. The pixel streamer (`45_pixel_streamer.md`), without the head tests of its operations first. -/

namespace Sys2Proof.Machine

/-! ### Glyph streaming -/

/-- `put_pixel(c) = WRITE_DATA16(c)` (R170). -/
def State.putPixel (s : State) (c : Color16) : State := s.emit (.tx16 c)

/-- A border pixel in column `col` (R167). -/
def State.borderPixel (s : State) (col : Fin 5) : State :=
  { s with count := { s.count with col := col } }.putPixel s.hold.border

/-- A pixel of a data row: the memo's colour if the tone is its tone, else a blend that the memo then holds (R168). -/
def State.dataPixel (s : State) (j : Fin 4) : State :=
  let tone := toneOf s.hold.rowWord j
  let s := { s with hold := { s.hold with tone := tone }, count := { s.count with col := j.castSucc } }
  if s.memo.has tone then s.putPixel s.memo.color
  else { s with memo := ⟨true, tone, blend s.params tone s.hold.fore s.hold.back⟩ }.putPixel
    (blend s.params tone s.hold.fore s.hold.back)

/-- `data_row(word)`: the memo is cleared, four tones are shown left to right, and a border pixel ends the row (R168). -/
def State.dataRow (s : State) (word : Half) : State :=
  let s := { s with hold := { s.hold with rowWord := word }, memo := { s.memo with valid := false } }
  (([0, 1, 2, 3] : List (Fin 4)).foldl State.dataPixel s).borderPixel 4

/-- A row of five border pixels: row 0 or row 9 (R166, R167). -/
def State.borderRow (s : State) (row : Fin 10) : State :=
  ([0, 1, 2, 3, 4] : List (Fin 5)).foldl State.borderPixel { s with count := { s.count with row := row } }

/-- Cell row `k`, from 1 to 8, of record `g` (R166, R157). -/
def State.glyphDataRow (g : Fin 95) (s : State) (k : Fin 9) : State :=
  { s with count := { s.count with row := k.castSucc } }.dataRow (glyphRow s.params.tables g k)

/-- The latches at the start of `STREAM_GLYPH`: operands, record, border colour, and counters at 0 (R166, R23). -/
def State.latchGlyph (s : State) (g : Fin 95) (char : Byte) (fore back : Color16) : State :=
  { s with
    hold := { s.hold with fore := fore, back := back, char := char, glyph := recordByte g,
                          border := blend s.params 15 fore back }
    count := { s.count with row := 0, col := 0 } }

/-- The streaming of `STREAM_GLYPH` once its tests have passed: rows 0 to 9, each left to right (R166). -/
def State.streamGlyph (s : State) (g : Fin 95) (char : Byte) (fore back : Color16) : State :=
  (([1, 2, 3, 4, 5, 6, 7, 8] : List (Fin 9)).foldl (State.glyphDataRow g)
    ((s.latchGlyph g char fore back).borderRow 0)).borderRow 9

/-- `STREAM_GLYPH(char, fore, back)` (R166). -/
def execStreamGlyph (char : Byte) (fore back : Color16) (s : State) : Outcome :=
  s.inDataMode
    (match s.glyphRecord char with
     | some g => .next (s.streamGlyph g char fore back).finish
     | none => .fault .fontRecordOutOfRange)

/-! ### Fill streaming -/

/-- The events of a fill of `k` pairs: one burst word each, and a yield after every 50,000th pair (R174, R175). -/
def fillEvents (w : Word) (k : Nat) : List Event :=
  (List.range k).flatMap fun pair => .tx32 w :: if (pair + 1) % yieldPeriod = 0 then [.yield] else []

/-- The streaming of `STREAM_FILL` once its tests have passed (R174). -/
def State.streamFill (s : State) (c16 : Color16) (n : Word) : State :=
  { s.emits (fillEvents (packBurstWord c16 c16) (n.toNat / 2)) with
    hold := { s.hold with fill := c16 }, count := { s.count with pair := n >>> 1 } }

/-- `STREAM_FILL(c16, n)` (R174). -/
def execStreamFill (c16 : Color16) (n : Word) (s : State) : Outcome :=
  s.inDataMode (evenCount n (.next (s.streamFill c16 n).finish))

end Sys2Proof.Machine
end

