-- ==== Sys2Proof/Machine/Window.lean ====
section
/-! DEFINITION. The address-window cache (`46_window_init_facade.md` section 2). -/

namespace Sys2Proof.Machine

/-- One coordinate frame: the command and a start and end coordinate, each one `TX16` (R187, R85). -/
def State.sendPair (s : State) (code : Byte) (first last : Half) : State :=
  (s.writeCommand code).emits [.tx16 first, .tx16 last]

/-- The column pair, elided when it is the one last programmed (R187). -/
def State.programColumns (s : State) (x1 x2 : Half) : State :=
  if s.window.hasColumns x1 x2 then s
  else { s.sendPair s.params.opcodes.bytes.caset x1 x2 with
         window := { s.window with x1 := x1, x2 := x2, xv := true } }

/-- The row pair, elided when it is the one last programmed (R187). -/
def State.programRows (s : State) (y1 y2 : Half) : State :=
  if s.window.hasRows y1 y2 then s
  else { s.sendPair s.params.opcodes.bytes.paset y1 y2 with
         window := { s.window with y1 := y1, y2 := y2, yv := true } }

/-- `SET_WINDOW` once its test has passed: columns, rows, and the memory-write command, which is never elided (R187). -/
def State.setWindow (s : State) (x1 x2 y1 y2 : Half) : State :=
  ((s.programColumns x1 x2).programRows y1 y2).writeCommand s.params.opcodes.bytes.ramwr

/-- `SET_WINDOW(x1, x2, y1, y2)`, the 14-bit operands zero-extended (R187, R88). -/
def execSetWindow (x1 x2 y1 y2 : Coord14) (s : State) : Outcome :=
  s.inBracket (.next (s.setWindow (x1.setWidth 16) (x2.setWidth 16) (y1.setWidth 16) (y2.setWidth 16)).finish)

end Sys2Proof.Machine
end

