-- ==== Sys2Proof/Machine/Facade.lean ====
section
/-! DEFINITION. The driver facade (`46_window_init_facade.md` sections 4 and 5). No operation reads `INITIALIZED` (R205). -/

namespace Sys2Proof.Machine

/-- `INITIALIZED <- true` (R28). -/
def State.markInitialized (s : State) : State := { s with initialized := true }

/-- `BEGIN()`: the script and the flag, nothing else (R204). -/
def execBeginDriver (s : State) : Outcome :=
  s.outOfBracket (.next s.initRun.markInitialized.finish)

/-- The display registers of a rotation (R194). -/
def State.rotate (s : State) (r : BitVec 2) : State := { s with display := displayFor r }

/-- `SET_ROTATION(m)`: the registers of rotation `m mod 4`, then the memory-access-control frame, on every call (R197). -/
def execSetRotation (m : Byte) (s : State) : Outcome :=
  s.outOfBracket (.next ((s.rotate (rotationOf m)).sendCommand s.params.opcodes.bytes.madctl
    [madctlOf s.params.tables (rotationOf m)]).finish)

/-- `FILL_SCREEN(c12)`: one bracket with the full-screen window and the fill (R200). The pixel count is 76,800 in every
rotation; the parity test is the one `STREAM_FILL` performed in place would make (DEDUCED, log 15). -/
def execFillScreen (c12 : Color12) (s : State) : Outcome :=
  s.outOfBracket (evenCount (pixelCount s.display) (.next
    ((((s.startTransaction).setWindow 0 (s.display.width - 1) 0 (s.display.height - 1)).streamFill
      (toDisplayColor s.params.readings.greenFill c12) (pixelCount s.display)).endTransaction).finish))

/-- `DRAW_CHAR` inside its bracket (R202). -/
def State.drawCell (s : State) (g : Fin 95) (col row char : Byte) (fore12 back12 : Color12) : State :=
  (((s.startTransaction).setWindow (cellX col) (cellX col + 4) (cellY row) (cellY row + 9)).streamGlyph g char
    (toDisplayColor s.params.readings.greenFill fore12) (toDisplayColor s.params.readings.greenFill back12)).endTransaction

/-- `DRAW_CHAR(col, row, char, fore12, back12)`: the clip test before everything else (R201), then the bracket (R202). -/
def execDrawChar (col row char : Byte) (fore12 back12 : Color12) (s : State) : Outcome :=
  if s.clips col row then .next s.finish
  else s.outOfBracket
    (match s.glyphRecord char with
     | some g => .next (s.drawCell g col row char fore12 back12).finish
     | none => .fault .fontRecordOutOfRange)

/-- `GET_WIDTH()` (R206). -/
def execGetWidth (s : State) : Outcome := .next (s.respond s.display.width)

/-- `GET_HEIGHT()` (R208). -/
def execGetHeight (s : State) : Outcome := .next (s.respond s.display.height)

/-- `GET_ROWS()` (R209). -/
def execGetRows (s : State) : Outcome := .next (s.respond s.display.rows)

/-- `GET_COLUMNS()` (R210). -/
def execGetColumns (s : State) : Outcome := .next (s.respond s.display.columns)

end Sys2Proof.Machine
end

