-- ==== Sys2Proof/Machine/FontTable.lean ====
section
/-! DEFINITION. The font table and its index (`44_font_table.md`). -/

namespace Sys2Proof.Machine

/-- The zero fill of the 256 elements (R152). -/
def State.zeroIndex (s : State) : State :=
  (List.range indexSize).foldl (fun s k => s.indexWrite (BitVec.ofNat 8 k) 0) s

/-- The scan: each record's position goes in keyed by the low byte of its code word; the sentinel is recorded, then the
scan ends (R152). The last record has the sentinel code (`TableData.fontOk`), so the list never runs out first. -/
def State.scanRecords : List (Fin 95) → State → State
  | [], s => s
  | i :: later, s =>
    let code := fontCode s.params.tables i
    let s := { s.indexWrite (lowByte code) (recordByte i) with count := { s.count with scan := i } }
    if code = codeSentinel then s else State.scanRecords later s

/-- `BUILD_INDEX()` (R152). -/
def State.buildIndex (s : State) : State := State.scanRecords (List.finRange 95) s.zeroIndex

def execBuildIndex (s : State) : Outcome := .next s.buildIndex.finish

/-- `LOOKUP(code)` (R155). It latches `CHAR` and `GLYPH` (R21). -/
def execLookup (code : Byte) (s : State) : Outcome :=
  .next ({ s with hold := { s.hold with char := code, glyph := s.indexRead code } }.respond (s.indexRead code))

end Sys2Proof.Machine
end

