-- ==== Sys2Proof/Machine/Framer.lean ====
section
/-! DEFINITION. The SPI command framer (`41_command_framer.md`). -/

namespace Sys2Proof.Machine

/-- `START_TRANSACTION()` (R101). -/
def execStartTransaction (s : State) : Outcome := s.outOfBracket (.next s.startTransaction.finish)

/-- `END_TRANSACTION()` (R102). -/
def execEndTransaction (s : State) : Outcome := s.inBracket (.next s.endTransaction.finish)

/-- `SEND_COMMAND(code, payload)` (R104). -/
def execSendCommand (code : Byte) (payload : List Byte) (s : State) : Outcome :=
  s.outOfBracket (.next (s.sendCommand code payload).finish)

/-- `WRITE_COMMAND(code)`: any code is sent as given, 0 included (R103). -/
def execWriteCommand (code : Byte) (s : State) : Outcome := s.inBracket (.next (s.writeCommand code).finish)

/-- `WRITE_DATA8(b)` (R105). -/
def execWriteData8 (b : Byte) (s : State) : Outcome := s.inDataMode (.next (s.emit (.tx8 b)).finish)

/-- `WRITE_DATA16(w)` (R106). -/
def execWriteData16 (w : Half) (s : State) : Outcome := s.inDataMode (.next (s.emit (.tx16 w)).finish)

/-- `WRITE_DATA32(w)` (R107). -/
def execWriteData32 (w : Word) (s : State) : Outcome := s.inDataMode (.next (s.emit (.tx32 w)).finish)

end Sys2Proof.Machine
end

