-- ==== Sys2Proof/Machine/WireCommand.lean ====
section
/-! DEFINITION. The eight wire command bytes (`30_encoding.md` R84): each is the head of a command frame (R71), which the
framer sends. What the controller does with it is outside the block (`00_scope.md` R6). DESIGN CHOICE (log 2). -/

namespace Sys2Proof.Machine

/-- Software reset (R84). -/
def execSwreset (s : State) : Outcome := .next (s.sendFrameHead s.params.opcodes.bytes.swreset).finish

/-- Sleep-out (R84). The settle delay of R192 belongs to a record of the init script and is emitted by `INIT_RUN` alone
(R271). -/
def execSlpout (s : State) : Outcome := .next (s.sendFrameHead s.params.opcodes.bytes.slpout).finish

/-- Gamma-set (R84). -/
def execGammaset (s : State) : Outcome := .next (s.sendFrameHead s.params.opcodes.bytes.gammaset).finish

/-- Display-on (R84); as for sleep-out, no settle delay. -/
def execDispon (s : State) : Outcome := .next (s.sendFrameHead s.params.opcodes.bytes.dispon).finish

/-- Column address set (R84). The window cache is not written: it records what `SET_WINDOW` sent (R29). -/
def execCaset (s : State) : Outcome := .next (s.sendFrameHead s.params.opcodes.bytes.caset).finish

/-- Page address set (R84); the window cache is not written (R29). -/
def execPaset (s : State) : Outcome := .next (s.sendFrameHead s.params.opcodes.bytes.paset).finish

/-- Memory write (R84). -/
def execRamwr (s : State) : Outcome := .next (s.sendFrameHead s.params.opcodes.bytes.ramwr).finish

/-- Memory-access-control (R84). The display registers are not written: `SET_ROTATION` alone writes them (R26). -/
def execMadctl (s : State) : Outcome := .next (s.sendFrameHead s.params.opcodes.bytes.madctl).finish

end Sys2Proof.Machine
end

