-- ==== Sys2Proof/Machine/Dispatch.lean ====
section
/-! DEFINITION. Dispatch: one arm per constructor of `Instr`, each one direct call of its meaning. -/

namespace Sys2Proof.Machine

def exec (i : Instr) (s : State) : Host.Outcome State Fault Refusal :=
  match i with
  -- command framer
  | .startTransaction => Sys2Proof.Machine.execStartTransaction s
  | .endTransaction => Sys2Proof.Machine.execEndTransaction s
  | .sendCommand code payload => Sys2Proof.Machine.execSendCommand code payload s
  | .writeCommand code => Sys2Proof.Machine.execWriteCommand code s
  | .writeData8 b => Sys2Proof.Machine.execWriteData8 b s
  | .writeData16 w => Sys2Proof.Machine.execWriteData16 w s
  | .writeData32 w => Sys2Proof.Machine.execWriteData32 w s
  -- colour converter
  | .toDisplayColor c12 => Sys2Proof.Machine.execToDisplayColor c12 s
  | .packBurstWord a b => Sys2Proof.Machine.execPackBurstWord a b s
  -- glyph blender
  | .blend tone fore back => Sys2Proof.Machine.execBlend tone fore back s
  -- font table
  | .buildIndex => Sys2Proof.Machine.execBuildIndex s
  | .lookup code => Sys2Proof.Machine.execLookup code s
  -- pixel streamer
  | .streamGlyph char fore back => Sys2Proof.Machine.execStreamGlyph char fore back s
  | .streamFill c16 n => Sys2Proof.Machine.execStreamFill c16 n s
  -- window cache, init sequencer and facade
  | .setWindow x1 x2 y1 y2 => Sys2Proof.Machine.execSetWindow x1 x2 y1 y2 s
  | .initRun => Sys2Proof.Machine.execInitRun s
  | .beginDriver => Sys2Proof.Machine.execBeginDriver s
  | .setRotation m => Sys2Proof.Machine.execSetRotation m s
  | .fillScreen c12 => Sys2Proof.Machine.execFillScreen c12 s
  | .drawChar col row char fore12 back12 => Sys2Proof.Machine.execDrawChar col row char fore12 back12 s
  | .getWidth => Sys2Proof.Machine.execGetWidth s
  | .getHeight => Sys2Proof.Machine.execGetHeight s
  | .getRows => Sys2Proof.Machine.execGetRows s
  | .getColumns => Sys2Proof.Machine.execGetColumns s
  -- wire command bytes
  | .swreset => Sys2Proof.Machine.execSwreset s
  | .slpout => Sys2Proof.Machine.execSlpout s
  | .gammaset => Sys2Proof.Machine.execGammaset s
  | .dispon => Sys2Proof.Machine.execDispon s
  | .caset => Sys2Proof.Machine.execCaset s
  | .paset => Sys2Proof.Machine.execPaset s
  | .ramwr => Sys2Proof.Machine.execRamwr s
  | .madctl => Sys2Proof.Machine.execMadctl s

end Sys2Proof.Machine
end

