-- ==== Sys2Proof/Machine/Step.lean ====
section
/-! DEFINITION. One step: the block takes the next request, decodes it and carries it out to completion (`00_scope.md` R2). -/

namespace Sys2Proof.Machine

/-- Three outcomes: the state after the operation (or the same state while the block waits), a fault, or a refusal. -/
def step (s : State) : Host.Outcome State Fault Refusal :=
  match s.fetch with
  | .idle => .next s
  | .run i s' => exec i s'
  | .bad r => .refused r

/-- `s` with a table word presented as its next request, and the payload bytes it needs, all 0, on the byte port. -/
def State.withFetchWord (s : State) (nbits w : Nat) : State :=
  s.present (tableRequest nbits w) (tablePayload (tableRequest nbits w))

end Sys2Proof.Machine
end

