-- ==== Sys2Proof/Machine/Wire.lean ====
section
/-! DEFINITION. What can be read off the wire trace: its byte-level projection (`00_scope.md` R14), the frames on it
(`30_encoding.md` R71), and the lines as the trace leaves them (`41_command_framer.md` R108). No operation reads these. -/

namespace Sys2Proof.Machine

/-- The bytes of one event, in the order they leave (R14). PRESUMED of the transport (log 7): a 16-bit word leaves high
byte first and a 32-bit word low byte first, as the spec decides. -/
def Event.wireBytes : Event → List Byte
  | .tx8 b => [b]
  | .tx16 w => [highByte w, lowByte w]
  | .tx32 w => [w.extractLsb' 0 8, w.extractLsb' 8 8, w.extractLsb' 16 8, w.extractLsb' 24 8]
  | .busBegin _ _ | .busEnd | .csAssert | .csDeassert | .dcCmd | .dcData | .delay _ | .yield => []

/-- The state of the bus and its lines. -/
structure Lines where
  bus : Bool
  cs  : ChipSelect
  dc  : Selector
  deriving DecidableEq, Repr

/-- Before the first event. -/
def Lines.idle : Lines := ⟨false, .deasserted, .unknown⟩

/-- The lines after an event. -/
def Lines.after (l : Lines) : Event → Lines
  | .busBegin _ _ => { l with bus := true }
  | .busEnd => { l with bus := false }
  | .csAssert => { l with cs := .asserted }
  | .csDeassert => { l with cs := .deasserted }
  | .dcCmd => { l with dc := .cmd }
  | .dcData => { l with dc := .data }
  | .tx8 _ | .tx16 _ | .tx32 _ | .delay _ | .yield => l

/-- The bytes of a trace that starts with the lines at `l`: each with the selector in force, and only while chip-select is
asserted (R14). -/
def bytesFrom (l : Lines) : List Event → List (Selector × Byte)
  | [] => []
  | e :: rest =>
    (if l.cs = .asserted then e.wireBytes.map (fun b => (l.dc, b)) else []) ++ bytesFrom (l.after e) rest

/-- `bytes(W)` (R14). -/
def bytes (w : List Event) : List (Selector × Byte) := bytesFrom Lines.idle w

/-- Where an event may stand, by the lines before it: the bus is taken before chip-select is asserted and given up after
it is deasserted (R101, R102); the selector moves and words are sent only while chip-select is asserted, words with
the selector at a known level (R108); a delay finds the bus free (R192) and a yield finds it held (R251). -/
def Lines.admits (l : Lines) : Event → Bool
  | .busBegin _ _ => !l.bus && l.cs == .deasserted
  | .csAssert => l.bus && l.cs == .deasserted
  | .csDeassert => l.bus && l.cs == .asserted
  | .busEnd => l.bus && l.cs == .deasserted
  | .dcCmd | .dcData => l.cs == .asserted
  | .tx8 _ | .tx16 _ | .tx32 _ => l.cs == .asserted && l.dc != .unknown
  | .delay _ => !l.bus
  | .yield => l.bus && l.cs == .asserted

/-- The lines at the end of a trace, if every event of it stands where it may. -/
def replayFrom (l : Lines) : List Event → Option Lines
  | [] => some l
  | e :: rest => if l.admits e then replayFrom (l.after e) rest else none

def replay (w : List Event) : Option Lines := replayFrom Lines.idle w

/-! ### Frames (`30_encoding.md` R71) -/

/-- What bounds frames on the wire: the bytes, and the ends of transactions. -/
inductive Mark where
  | byte (dc : Selector) (b : Byte)
  /-- Chip-select is deasserted: the transaction ends (R102). -/
  | release
  deriving DecidableEq, Repr

/-- The marks of one event with the lines at `l` before it: its bytes while chip-select is asserted, or the end of the
transaction. -/
def Lines.marks (l : Lines) : Event → List Mark
  | .csDeassert => [.release]
  | .tx8 b => if l.cs = .asserted then (Event.tx8 b).wireBytes.map (.byte l.dc) else []
  | .tx16 w => if l.cs = .asserted then (Event.tx16 w).wireBytes.map (.byte l.dc) else []
  | .tx32 w => if l.cs = .asserted then (Event.tx32 w).wireBytes.map (.byte l.dc) else []
  | .busBegin _ _ | .busEnd | .csAssert | .dcCmd | .dcData | .delay _ | .yield => []

/-- The marks of a trace that starts with the lines at `l`. -/
def marksFrom (l : Lines) : List Event → List Mark
  | [] => []
  | e :: rest => l.marks e ++ marksFrom (l.after e) rest

/-- A command frame: a command byte and its payload. -/
structure Frame where
  code    : Byte
  payload : List Byte
  deriving DecidableEq, Repr

/-- The data bytes up to the next command byte or the end of the transaction. -/
def dataRun : List Mark → List Byte
  | .byte .data b :: rest => b :: dataRun rest
  | .byte .cmd _ :: _ | .byte .unknown _ :: _ | .release :: _ | [] => []

/-- The frames among marks: each command byte with the data bytes up to the next command byte or the end of the
transaction. Data bytes with no command byte before them in their transaction belong to no frame: the source says nothing
of that case (`70_reset_and_hazards.md` R245). DEDUCED (log 17). -/
def framesIn : List Mark → List Frame
  | [] => []
  | .byte .cmd code :: rest => ⟨code, dataRun rest⟩ :: framesIn rest
  | .byte .data _ :: rest | .byte .unknown _ :: rest | .release :: rest => framesIn rest

/-- The frames of a trace that starts with the lines at `l`. -/
def framesFrom (l : Lines) (w : List Event) : List Frame := framesIn (marksFrom l w)

/-- The frames of a trace. -/
def frames (w : List Event) : List Frame := framesFrom Lines.idle w

end Sys2Proof.Machine
end

