-- ==== Sys2Proof/Safety.lean ====
section
/-! DEFINITION. What claims are stated in: the machine's invariant, and a run of requests that ends well
(`70_reset_and_hazards.md` R253). -/

namespace Sys2Proof.Safety

open Sys2Proof.Machine

/-! ### The invariant -/

/-- No byte is sent before the first command byte: with the selector still unknown nothing has been sent, and afterwards the
first byte of the wire is a command byte (R108, R105). -/
def CommandFirst (s : State) : Prop :=
  (s.framer.dc = .unknown → bytes s.trace = []) ∧
  (s.framer.dc ≠ .unknown → (bytes s.trace).head?.map Prod.fst = some .cmd)

/-- The line registers agree with the lines as the trace leaves them, and every event stands where it may: so
`CS = asserted` exactly when `TXN = true`, no word was sent outside a bracket, and none before a command byte (R24, R108). -/
def LinesAgree (s : State) : Prop :=
  replay s.trace = some ⟨s.framer.txn, if s.framer.txn then .asserted else .deasserted, s.framer.dc⟩
    ∧ s.framer.cs = (if s.framer.txn then .asserted else .deasserted)
    ∧ CommandFirst s

/-- At an operation boundary the selector is not at command (R24). -/
def SelectorAtRest (s : State) : Prop := s.framer.dc ≠ .cmd

/-- The display registers are those of the rotation (R194, R27). -/
def DisplayAgrees (s : State) : Prop := s.display = displayFor s.display.rotation

/-- The FontIndex is in canonical form and every element reads as the built index (R67, R153). -/
def IndexBuilt (s : State) : Prop :=
  Memory.wf (indexDefault s.params.tables) s.index = true
    ∧ ∀ c : Byte, s.indexRead c = recordByte (builtIndex s.params.tables c)

/-- What holds at every operation boundary. -/
structure Inv (s : State) : Prop where
  lines    : LinesAgree s
  selector : SelectorAtRest s
  display  : DisplayAgrees s
  index    : IndexBuilt s

/-! ### Runs of requests -/

/-- How one request ended (R16), or that it has not ended. -/
inductive Ending where
  | completed
  | refused (r : Refusal)
  | faulted (r : Fault)
  /-- The block still waits for payload bytes of a `SEND_COMMAND`: the request has neither completed nor been refused.
  DEDUCED (log 6). -/
  | waiting
  deriving DecidableEq, Repr

/-- The state with one request on the request port, and its payload bytes behind those still on the byte port. -/
def offer (s : State) (r : Request) (payload : List Byte) : State :=
  { s with requests := [r], bytePort := s.bytePort ++ payload }

/-- A run: requests issued one after another, each once the one before has completed or been refused (R253). A step that
takes the request completes it. A step that leaves it on the port has not: the block waits for payload bytes, the
request has not ended, so no later one is issued and the run is over without having ended well. That a `SEND_COMMAND`
offered with too few payload bytes waits so is the model's reading, the spec being silent (DEDUCED, log 6). A refused
request writes no state and the block is ready for the next (R222), so the run goes on from the state before it
(DEDUCED, log 13). -/
def run : List (Request × List Byte) → State → State × List Ending
  | [], s => (s, [])
  | (r, payload) :: later, s =>
    match step (offer s r payload) with
    | .next t => if t.requests.isEmpty then ((run later t).1, .completed :: (run later t).2) else (t, [.waiting])
    | .refused why => ((run later s).1, .refused why :: (run later s).2)
    | .fault why => (s, [.faulted why])

/-- A run ended well when every request completed, none refused or still waiting, and no transaction is open (R253). -/
def EndedWell (out : State × List Ending) : Prop :=
  (∀ e ∈ out.2, e = .completed) ∧ out.1.framer.txn = false

/-! ### Sequences of operations -/

/-- Operations carried out one after another, up to the first that does not complete (R94, R267). -/
def execAll : List Instr → State → Outcome
  | [], s => .next s
  | i :: later, s =>
    match exec i s with
    | .next t => execAll later t
    | .fault why => .fault why
    | .refused why => .refused why

/-! ### Classes of operations -/

/-- The operations the host's public interface offers (R207). -/
def isPublic : Instr → Bool
  | .beginDriver | .setRotation _ | .fillScreen _ | .drawChar _ _ _ _ _
  | .getWidth | .getHeight | .getRows | .getColumns => true
  | .startTransaction | .endTransaction | .sendCommand _ _ | .writeCommand _ | .writeData8 _ | .writeData16 _
  | .writeData32 _ | .toDisplayColor _ | .packBurstWord _ _ | .blend _ _ _ | .buildIndex | .lookup _
  | .streamGlyph _ _ _ | .streamFill _ _ | .setWindow _ _ _ _ | .initRun | .swreset | .slpout | .gammaset
  | .dispon | .caset | .paset | .ramwr | .madctl => false

/-- The operations that R222 reason 3 names: each opens a bracket of its own. -/
def opensBracket : Instr → Bool
  | .startTransaction | .sendCommand _ _ | .initRun | .beginDriver | .setRotation _ | .fillScreen _
  | .drawChar _ _ _ _ _ => true
  | .endTransaction | .writeCommand _ | .writeData8 _ | .writeData16 _ | .writeData32 _ | .toDisplayColor _
  | .packBurstWord _ _ | .blend _ _ _ | .buildIndex | .lookup _ | .streamGlyph _ _ _ | .streamFill _ _
  | .setWindow _ _ _ _ | .getWidth | .getHeight | .getRows | .getColumns | .swreset | .slpout | .gammaset
  | .dispon | .caset | .paset | .ramwr | .madctl => false

/-- The operations that R222 reason 5 names: each sends data. -/
def sendsData : Instr → Bool
  | .writeData8 _ | .writeData16 _ | .writeData32 _ | .streamGlyph _ _ _ | .streamFill _ _ => true
  | .startTransaction | .endTransaction | .sendCommand _ _ | .writeCommand _ | .toDisplayColor _ | .packBurstWord _ _
  | .blend _ _ _ | .buildIndex | .lookup _ | .setWindow _ _ _ _ | .initRun | .beginDriver | .setRotation _
  | .fillScreen _ | .drawChar _ _ _ _ _ | .getWidth | .getHeight | .getRows | .getColumns | .swreset | .slpout
  | .gammaset | .dispon | .caset | .paset | .ramwr | .madctl => false

/-- The operations that R222 reason 4 names: those that send data, and three more. -/
def needsBracket : Instr → Bool
  | .endTransaction | .writeCommand _ | .setWindow _ _ _ _
  | .writeData8 _ | .writeData16 _ | .writeData32 _ | .streamGlyph _ _ _ | .streamFill _ _ => true
  | .startTransaction | .sendCommand _ _ | .toDisplayColor _ | .packBurstWord _ _ | .blend _ _ _ | .buildIndex
  | .lookup _ | .initRun | .beginDriver | .setRotation _ | .fillScreen _ | .drawChar _ _ _ _ _ | .getWidth | .getHeight
  | .getRows | .getColumns | .swreset | .slpout | .gammaset | .dispon | .caset | .paset | .ramwr | .madctl => false

/-- The pure operations and the reads, which R36 says write no persistent state and emit no event. -/
def isPure : Instr → Bool
  | .toDisplayColor _ | .packBurstWord _ _ | .blend _ _ _ | .lookup _
  | .getWidth | .getHeight | .getRows | .getColumns => true
  | .startTransaction | .endTransaction | .sendCommand _ _ | .writeCommand _ | .writeData8 _ | .writeData16 _
  | .writeData32 _ | .buildIndex | .streamGlyph _ _ _ | .streamFill _ _ | .setWindow _ _ _ _ | .initRun
  | .beginDriver | .setRotation _ | .fillScreen _ | .drawChar _ _ _ _ _ | .swreset | .slpout | .gammaset | .dispon
  | .caset | .paset | .ramwr | .madctl => false

/-- The operations whose command byte the host gives: any byte (R103, R104), or one of the eight by name (log 2). -/
def sendsGivenCode : Instr → Bool
  | .sendCommand _ _ | .writeCommand _
  | .swreset | .slpout | .gammaset | .dispon | .caset | .paset | .ramwr | .madctl => true
  | .startTransaction | .endTransaction | .writeData8 _ | .writeData16 _ | .writeData32 _ | .toDisplayColor _
  | .packBurstWord _ _ | .blend _ _ _ | .buildIndex | .lookup _ | .streamGlyph _ _ _ | .streamFill _ _
  | .setWindow _ _ _ _ | .initRun | .beginDriver | .setRotation _ | .fillScreen _ | .drawChar _ _ _ _ _ | .getWidth
  | .getHeight | .getRows | .getColumns => false

/-- The operations that perform `WRITE_COMMAND`, and so write `DC` (R36): those with a given code and the composites that send
codes of their own. -/
def performsWriteCommand (i : Instr) : Bool :=
  sendsGivenCode i || match i with
  | .setWindow _ _ _ _ | .initRun | .beginDriver | .setRotation _ | .fillScreen _ | .drawChar _ _ _ _ _ => true
  | .startTransaction | .endTransaction | .sendCommand _ _ | .writeCommand _ | .writeData8 _ | .writeData16 _
  | .writeData32 _ | .toDisplayColor _ | .packBurstWord _ _ | .blend _ _ _ | .buildIndex | .lookup _
  | .streamGlyph _ _ _ | .streamFill _ _ | .getWidth | .getHeight | .getRows | .getColumns | .swreset | .slpout
  | .gammaset | .dispon | .caset | .paset | .ramwr | .madctl => false

/-! ### Events of the composite operations -/

/-- The command bytes among events: each byte sent right after the selector goes to command (R103). -/
def commandCodes : List Event → List Byte
  | .dcCmd :: .tx8 code :: rest => code :: commandCodes rest
  | _ :: rest => commandCodes rest
  | [] => []

/-- The events that open and close a bracket (R101, R102). -/
def openEvents (p : Params) : List Event := [.busBegin p.tables.data.spiClockHz p.tables.data.spiMode, .csAssert]
def closeEvents : List Event := [.csDeassert, .busEnd]

/-- The events that put a command byte on the wire (R103). -/
def commandEvents (code : Byte) : List Event := [.dcCmd, .tx8 code, .dcData]

/-- The column frame of a window, unless the cache holds the pair (R187). -/
def columnEvents (s : State) (x1 x2 : Half) : List Event :=
  if s.window.xv = true ∧ s.window.x1 = x1 ∧ s.window.x2 = x2 then []
  else commandEvents s.params.opcodes.bytes.caset ++ [.tx16 x1, .tx16 x2]

/-- The row frame of a window, unless the cache holds the pair (R187). -/
def rowEvents (s : State) (y1 y2 : Half) : List Event :=
  if s.window.yv = true ∧ s.window.y1 = y1 ∧ s.window.y2 = y2 then []
  else commandEvents s.params.opcodes.bytes.paset ++ [.tx16 y1, .tx16 y2]

/-- All events of window programming; the memory-write command is never elided (R187). -/
def windowEvents (s : State) (x1 x2 y1 y2 : Half) : List Event :=
  columnEvents s x1 x2 ++ rowEvents s y1 y2 ++ commandEvents s.params.opcodes.bytes.ramwr

/-- The colour of cell position (column `cx`, row `cy`) of record `g` (R172): the border is tone 15, and an interior pixel's
tone is bits `15 - 4*cx` down to `12 - 4*cx` of the record's element `cy` (R79, R157), written out here so that a claim
does not lean on the fetch the machine uses. -/
def cell (p : Params) (g : Fin 95) (fore back : Color16) (cx : Fin 5) (cy : Fin 10) : Color16 :=
  if h : cx.val < 4 ∧ 1 ≤ cy.val ∧ cy.val < 9 then
    blend p ((p.tables.data.font[g][cy.val]'h.2.2).extractLsb' (12 - 4 * cx.val) 4) fore back
  else blend p 15 fore back

/-- The 50 pixels of a cell, top to bottom and left to right, one 16-bit word each (R170 to R172). -/
def cellEvents (p : Params) (g : Fin 95) (fore back : Color16) : List Event :=
  (List.finRange 10).flatMap fun cy => (List.finRange 5).map fun cx => .tx16 (cell p g fore back cx cy)

/-- One record of the init script. -/
structure ScriptRecord where
  opcode  : Byte
  payload : List Byte
  flag    : Bool
  deriving DecidableEq, Repr

/-- The records of a byte string, up to the first zero opcode (R82); the first argument bounds their number. The length
byte is split by arithmetic here, so that a claim does not lean on the split the machine uses. -/
def scriptRecords : Nat → List Byte → List ScriptRecord
  | left + 1, op :: lengthByte :: rest =>
    if op = 0 then []
    else ⟨op, rest.take (lengthByte.toNat % 128), decide (128 ≤ lengthByte.toNat)⟩
      :: scriptRecords left (rest.drop (lengthByte.toNat % 128))
  | _, _ => []

/-- The records of the init script (R82). -/
def initRecords (p : Params) : List ScriptRecord := scriptRecords p.tables.data.script.length p.tables.data.script

end Sys2Proof.Safety
end

