-- ==== Sys2Proof/Certificates/Slice0/Obligations.lean ====
section
/-! DEFINITION. The statements for the provers. Each says what the spec's numbered rules say the block does; none
rests on a value of a parameter the spec leaves open, nor on what a register the spec leaves unspecified holds after
reset. A tag D<n> in a docstring names a decision of `92_eei_decisions.md` the statement rests on: the spec's own
choice, not its source's. That an operation completes rests throughout on the premise of R246 and D29 that the
transport, the delay and the yield complete every event (log 12). -/

open Sys2Proof Sys2Proof.Machine Sys2Proof.Safety

/-! ### Requests -/

/-- Every well-formed operation survives the trip to a request and back, whatever bytes follow it on the port: no bit
of an operand is dropped or mixed with another (R87, R88, the spec's own encoding: D2, D27; the command bytes of R84).
-/
def Obligations.DecodeOfEncodeGivesTheInstr : Prop :=
  ∀ (ops : Opcodes) (i : Instr) (later : List Byte), i.wellFormed = true →
    decode ops (encode ops i).1 ((encode ops i).2 ++ later) = .ok i later

/-- Each request names at most one operation: what the decoder accepts is the request of the operation it answers,
with the payload taken from the front of the port, and that operation is well formed (R87, R88; D2). -/
def Obligations.EncodeOfDecodeGivesTheRequest : Prop :=
  ∀ (ops : Opcodes) (r : Request) (bytes rest : List Byte) (i : Instr), decode ops r bytes = .ok i rest →
    i.wellFormed = true ∧ (encode ops i).1 = r ∧ (encode ops i).2 ++ rest = bytes

/-- A head word with one of the unassigned operation numbers R91 (6) lists is refused (R222 reason 1; D2). -/
def Obligations.UnassignedOperationNumberIsRefused : Prop :=
  ∀ (s : State) (q : ReqWord) (later : List Request), s.requests = .head q :: later →
    (let op := q.toNat / 2 ^ 56
     op = 0x00 ∨ (0x08 ≤ op ∧ op ≤ 0x0F) ∨ (0x12 ≤ op ∧ op ≤ 0x17) ∨ (0x19 ≤ op ∧ op ≤ 0x1F)
       ∨ (0x22 ≤ op ∧ op ≤ 0x27) ∨ (0x2A ≤ op ∧ op ≤ 0x2F) ∨ (0x32 ≤ op ∧ op ≤ 0x37) ∨ 0x40 ≤ op) →
    step s = .refused .unknownOp

/-- For each assigned operation number that leaves bits unassigned (all but `SET_WINDOW`), with the mask of its row of
`opcode_table.json`: a head word with a bit under the mask that differs from the row's match is refused for its
reserved bits (R87, R222 reason 2; D2), whatever the port holds. -/
def Obligations.ReservedBitIsRefused : Prop :=
  ∀ row ∈ ([(0x01, 0xFFFFFFFFFFFFFFFF), (0x02, 0xFFFFFFFFFFFFFFFF), (0x03, 0xFFFFFFFFFFFF8000),
      (0x04, 0xFFFFFFFFFFFFFF00), (0x05, 0xFFFFFFFFFFFFFF00), (0x06, 0xFFFFFFFFFFFF0000), (0x07, 0xFFFFFFFF00000000),
      (0x10, 0xFFFFFFFFFFFFF000), (0x11, 0xFFFFFFFF00000000), (0x18, 0xFFFFFFF000000000), (0x20, 0xFFFFFFFFFFFFFFFF),
      (0x21, 0xFFFFFFFFFFFFFF00), (0x28, 0xFFFFFF0000000000), (0x29, 0xFFFF000000000000),
      (0x31, 0xFFFFFFFFFFFFFFFF), (0x38, 0xFFFFFFFFFFFFFFFF), (0x39, 0xFFFFFFFFFFFFFF00), (0x3A, 0xFFFFFFFFFFFFF000),
      (0x3B, 0xFF000000F000F000), (0x3C, 0xFFFFFFFFFFFFFFFF), (0x3D, 0xFFFFFFFFFFFFFFFF), (0x3E, 0xFFFFFFFFFFFFFFFF),
      (0x3F, 0xFFFFFFFFFFFFFFFF)] : List (Nat × ReqWord)),
    ∀ (s : State) (q : ReqWord) (later : List Request), s.requests = .head q :: later → q.toNat / 2 ^ 56 = row.1 →
      q &&& row.2 ≠ BitVec.ofNat 64 (row.1 * 2 ^ 56) → step s = .refused .reservedBits

/-- Head words the spec writes out, and two command bytes, decode to the operations it says they name
(`95_test_vectors.md` B10; R84's defaults, log 3; the encoding is D2). -/
def Obligations.WrittenOutWordsDecode : Prop :=
  decodeTableWord 64 0x3B3F17410ABC0123 = some (.drawChar 63 23 0x41 0xABC 0x123)
    ∧ decodeTableWord 64 0x18000007FFFF0000 = some (.blend 7 0xFFFF 0x0000)
    ∧ decodeTableWord 64 0x2900F80000000004 = some (.streamFill 0xF800 4)
    ∧ decodeTableWord 64 0x3000000EF000013F = some (.setWindow 0 239 0 319)
    ∧ decodeTableWord 64 0x1100000007E0F800 = some (.packBurstWord 0xF800 0x07E0)
    ∧ decodeTableWord 64 0x28000041FFFF0000 = some (.streamGlyph 0x41 0xFFFF 0x0000)
    ∧ decodeTableWord 64 0x2100000000000041 = some (.lookup 0x41)
    ∧ decodeTableWord 64 0x07000000E00700F8 = some (.writeData32 0xE00700F8)
    ∧ decodeTableWord 8 0x2A = some .caset ∧ decodeTableWord 8 0x36 = some .madctl
    ∧ decode Config.opcodes (.head 0x0300000000000136) [0x48] = .ok (.sendCommand 0x36 [0x48]) []

/-- A step takes the oldest request off the request port, with the payload bytes it decodes to, and runs exactly the
operation it decodes to (R2, R87; the encoding is D2). That requests and payload bytes wait in queues held in State,
and that the oldest is taken, is the model's choice (log 8): R2, R87 and R89 give the ports no storage. -/
def Obligations.StepRunsTheDecodedInstr : Prop :=
  ∀ (s : State) (r : Request) (later : List Request) (i : Instr) (bytes : List Byte), s.requests = r :: later →
    decode s.params.opcodes r s.bytePort = .ok i bytes →
    step s = exec i { s with requests := later, bytePort := bytes }

/-- The block waits, and nothing changes, while no request is pending (R35), and while bytes of the payload a
`SEND_COMMAND` announces are still missing (the model's reading, log 6). -/
def Obligations.BlockWaitsForItsRequest : Prop :=
  (∀ s : State, s.requests = [] → step s = .next s) ∧
  (∀ (s : State) (q : ReqWord) (later : List Request), s.requests = .head q :: later →
    q.toNat / 2 ^ 56 = 3 → q &&& 0x00FFFFFFFFFF8000 = 0 → s.bytePort.length < q.toNat / 2 ^ 8 % 2 ^ 7 →
    step s = .next s)

/-! ### Command framer -/

/-- R101: with no transaction open, the bus is taken and then chip-select asserted, and `DC` is not touched; with one
open the operation is refused (D18). -/
def Obligations.StartTransactionOpensABracket : Prop :=
  ∀ s : State,
    (s.framer.txn = false → exec .startTransaction s = .next { s with
      trace := s.trace ++ [.busBegin s.params.tables.data.spiClockHz s.params.tables.data.spiMode, .csAssert]
      framer := ⟨true, .asserted, s.framer.dc⟩
      resp := none }) ∧
    (s.framer.txn = true → exec .startTransaction s = .refused .nestedTransaction)

/-- R102: with a transaction open, chip-select is deasserted and then the bus given up, and `DC` keeps its value; with
none open the operation is refused (D18). -/
def Obligations.EndTransactionClosesTheBracket : Prop :=
  ∀ s : State,
    (s.framer.txn = true → exec .endTransaction s = .next { s with
      trace := s.trace ++ [.csDeassert, .busEnd]
      framer := ⟨false, .deasserted, s.framer.dc⟩
      resp := none }) ∧
    (s.framer.txn = false → exec .endTransaction s = .refused .noTransaction)

/-- R103: with a transaction open, any opcode byte is sent with the selector at command, which then returns to data
(D17); with none open the operation is refused (D18). -/
def Obligations.WriteCommandSendsTheOpcode : Prop :=
  ∀ (s : State) (code : Byte),
    (s.framer.txn = true → exec (.writeCommand code) s = .next { s with
      trace := s.trace ++ [.dcCmd, .tx8 code, .dcData]
      framer := ⟨true, s.framer.cs, .data⟩
      resp := none }) ∧
    (s.framer.txn = false → exec (.writeCommand code) s = .refused .noTransaction)

/-- R104: with no transaction open, one whole frame goes out in a bracket of its own, `DC_DATA` included when the
payload is empty; with one open the operation is refused (D18). -/
def Obligations.SendCommandSendsAWholeFrame : Prop :=
  ∀ (s : State) (code : Byte) (payload : List Byte),
    (s.framer.txn = false → exec (.sendCommand code payload) s = .next { s with
      trace := s.trace ++ ([.busBegin s.params.tables.data.spiClockHz s.params.tables.data.spiMode, .csAssert, .dcCmd,
        .tx8 code, .dcData] ++ payload.map .tx8 ++ [.csDeassert, .busEnd])
      framer := ⟨false, .deasserted, .data⟩
      resp := none }) ∧
    (s.framer.txn = true → exec (.sendCommand code payload) s = .refused .nestedTransaction)

/-- R105 to R107: with a transaction open and the selector at data, one word of 8, 16 or 32 bits is sent and nothing
else changes; its bytes leave in the order R106 and R107 give. Outside a bracket, and inside one with the selector not
at data, the write is refused (D18). The byte orders are D4 and D5 (log 7). -/
def Obligations.WriteDataSendsOneWord : Prop :=
  ∀ (s : State) (b : Byte) (h : Half) (w : Word),
    (∀ p ∈ ([(.writeData8 b, .tx8 b), (.writeData16 h, .tx16 h), (.writeData32 w, .tx32 w)] : List (Instr × Event)),
      (s.framer.txn = true → s.framer.dc = .data →
        exec p.1 s = .next { s with trace := s.trace ++ [p.2], resp := none }) ∧
      (s.framer.txn = false → exec p.1 s = .refused .noTransaction) ∧
      (s.framer.txn = true → s.framer.dc ≠ .data → exec p.1 s = .refused .selectorUnknown)) ∧
    (Event.tx8 b).wireBytes = [b] ∧
    (Event.tx16 h).wireBytes = [h.extractLsb' 8 8, h.extractLsb' 0 8] ∧
    (Event.tx32 w).wireBytes = [w.extractLsb' 0 8, w.extractLsb' 8 8, w.extractLsb' 16 8, w.extractLsb' 24 8]

/-- A stand-alone frame is the in-bracket sequence of its parts: the two ways of framing leave the same state, the
same events included (R94, R104; program P5). -/
def Obligations.SendCommandIsItsExpansion : Prop :=
  ∀ (s : State) (code : Byte) (payload : List Byte), s.framer.txn = false →
    exec (.sendCommand code payload) s
      = execAll ([.startTransaction, .writeCommand code] ++ payload.map .writeData8 ++ [.endTransaction]) s

/-- R71: on a wire whose lines the registers follow, a `SEND_COMMAND` adds exactly one frame, its opcode and its
payload, after the frames already there (R104), and whatever is sent later joins none of them; so does a
`WRITE_COMMAND` start one; and an `END_TRANSACTION` ends the last one, so that nothing sent after it is its payload.
That data sent later with no command before it in its transaction belongs to no frame is the model's reading (log 17).
-/
def Obligations.SendCommandAddsOneFrame : Prop :=
  ∀ (s : State) (code : Byte) (payload : List Byte), LinesAgree s →
    (s.framer.txn = false → ∃ t, exec (.sendCommand code payload) s = .next t
      ∧ frames t.trace = frames s.trace ++ [⟨code, payload⟩]
      ∧ ∀ later, frames (t.trace ++ later)
          = frames s.trace ++ ⟨code, payload⟩ :: framesFrom ⟨false, .deasserted, .data⟩ later) ∧
    (s.framer.txn = true → ∃ t, exec (.writeCommand code) s = .next t
      ∧ frames t.trace = frames s.trace ++ [⟨code, []⟩]) ∧
    (s.framer.txn = true → ∃ t, exec .endTransaction s = .next t ∧ frames t.trace = frames s.trace
      ∧ ∀ later, frames (t.trace ++ later)
          = frames s.trace ++ framesFrom ⟨false, .deasserted, s.framer.dc⟩ later)

/-- A wire command byte is the head of a frame (R71): inside a bracket the framer sends it as `WRITE_COMMAND` does,
outside one as a whole frame with no payload, as `SEND_COMMAND` does. That a command byte may be offered to the framer
by itself, and that the framing way in force decides the form, is the model's choice (log 2). It adds no power to the
block: those two operations send any byte, sleep-out included, when the host gives it (R103, R104). Of the operations
whose command byte the host does not give, only `INIT_RUN` and `BEGIN` send any but the window's three and
memory-access-control, so of these none but those two sends sleep-out, display-on, software reset or gamma-set (R84).
That R230 and R237 speak of those operations alone is the model's reading (DESIGN CHOICE, log 2). -/
def Obligations.WireCommandSendsItsFrameHead : Prop :=
  (∀ (s : State),
    ∀ p ∈ ([(.swreset, s.params.opcodes.bytes.swreset), (.slpout, s.params.opcodes.bytes.slpout),
        (.gammaset, s.params.opcodes.bytes.gammaset), (.dispon, s.params.opcodes.bytes.dispon),
        (.caset, s.params.opcodes.bytes.caset), (.paset, s.params.opcodes.bytes.paset),
        (.ramwr, s.params.opcodes.bytes.ramwr), (.madctl, s.params.opcodes.bytes.madctl)] : List (Instr × Byte)),
      (s.framer.txn = true → exec p.1 s = .next { s with
        trace := s.trace ++ [.dcCmd, .tx8 p.2, .dcData]
        framer := ⟨true, s.framer.cs, .data⟩
        resp := none }) ∧
      (s.framer.txn = false → exec p.1 s = .next { s with
        trace := s.trace ++ [.busBegin s.params.tables.data.spiClockHz s.params.tables.data.spiMode, .csAssert, .dcCmd,
          .tx8 p.2, .dcData, .csDeassert, .busEnd]
        framer := ⟨false, .deasserted, .data⟩
        resp := none }) ∧
      exec p.1 s = if s.framer.txn then exec (.writeCommand p.2) s else exec (.sendCommand p.2 []) s) ∧
  (∀ (i : Instr) (s t : State), sendsGivenCode i = false → i ≠ .initRun → i ≠ .beginDriver → exec i s = .next t →
    let ops := s.params.opcodes.bytes
    ∃ es, t.trace = s.trace ++ es ∧ ∀ code ∈ commandCodes es, code ∈ [ops.caset, ops.paset, ops.ramwr, ops.madctl]
      ∧ code ≠ ops.slpout ∧ code ≠ ops.dispon ∧ code ≠ ops.swreset ∧ code ≠ ops.gammaset)

/-! ### Colour converter -/

/-- R121, in its "equivalently" form, with the green mask of each reading (R128, D8): each nibble is shifted to its
place and its bit 0 fills the precision bits. Nothing but the response changes. -/
def Obligations.ToDisplayColorCopiesLowBits : Prop :=
  ∀ (s : State) (c12 : Color12),
    exec (.toDisplayColor c12) s = .next { s with resp := some (
        ((c12.extractLsb' 8 4).setWidth 32 <<< 12) ||| ((c12.extractLsb' 4 4).setWidth 32 <<< 7)
        ||| ((c12.extractLsb' 0 4).setWidth 32 <<< 1)
        ||| (if c12.getLsbD 8 then 0x0800 else 0)
        ||| (if c12.getLsbD 4 then (match s.params.readings.greenFill with | .both => 0x0060 | .lsbOnly => 0x0020) else 0)
        ||| (if c12.getLsbD 0 then 0x0001 else 0)) }

/-- R123: the conversion is injective on all 4096 inputs, and the three nibbles are read back at `c16[15:12]`,
`c16[10:7]` and `c16[4:1]`. -/
def Obligations.DisplayColorIsRecoverable : Prop :=
  ∀ (fill : GreenFill) (c : Color12),
    (toDisplayColor fill c).extractLsb' 12 4 = c.extractLsb' 8 4
      ∧ (toDisplayColor fill c).extractLsb' 7 4 = c.extractLsb' 4 4
      ∧ (toDisplayColor fill c).extractLsb' 1 4 = c.extractLsb' 0 4
      ∧ ∀ c' : Color12, toDisplayColor fill c = toDisplayColor fill c' → c = c'

/-- R124, and R128's change to it (D8): which Color16 values the conversion reaches, under each reading of the green
fill. -/
def Obligations.InImageColoursAreThese : Prop :=
  ∀ c : Color16,
    ((∃ c12, toDisplayColor .both c12 = c) ↔
      c.getLsbD 11 = c.getLsbD 12 ∧ c.getLsbD 6 = c.getLsbD 7 ∧ c.getLsbD 5 = c.getLsbD 7 ∧ c.getLsbD 0 = c.getLsbD 1) ∧
    ((∃ c12, toDisplayColor .lsbOnly c12 = c) ↔
      c.getLsbD 11 = c.getLsbD 12 ∧ c.getLsbD 6 = false ∧ c.getLsbD 5 = c.getLsbD 7 ∧ c.getLsbD 0 = c.getLsbD 1)

/-- R126: the burst word is `{b[7:0], b[15:8], a[7:0], a[15:8]}` for any two colours, and packing the halves of a
packed word gives `{b, a}` back. Nothing but the response changes. -/
def Obligations.PackBurstWordSwapsEachHalf : Prop :=
  ∀ (s : State) (a b : Color16),
    ∃ w : Word, exec (.packBurstWord a b) s = .next { s with resp := some w }
      ∧ w.extractLsb' 0 8 = a.extractLsb' 8 8 ∧ w.extractLsb' 8 8 = a.extractLsb' 0 8
      ∧ w.extractLsb' 16 8 = b.extractLsb' 8 8 ∧ w.extractLsb' 24 8 = b.extractLsb' 0 8
      ∧ exec (.packBurstWord (w.extractLsb' 0 16) (w.extractLsb' 16 16)) s = .next { s with resp := some (b ++ a) }

/-- R127: a burst word leaves as its two pixels would, each high byte first, the first one first (R14's orders: D4 and
D5, log 7). -/
def Obligations.BurstWordLeavesAsTwoPixels : Prop :=
  ∀ a b : Color16,
    (Event.tx32 (packBurstWord a b)).wireBytes
        = [a.extractLsb' 8 8, a.extractLsb' 0 8, b.extractLsb' 8 8, b.extractLsb' 0 8]
      ∧ (Event.tx32 (packBurstWord a b)).wireBytes = (Event.tx16 a).wireBytes ++ (Event.tx16 b).wireBytes

/-! ### Glyph blender -/

/-- R139 with R137 and R138, under nibble channels and the literal mix (D10, D11): each result nibble is `((255 - w) *
f + w * b) >> 8` of the operands' nibbles with the tone's weight, and the three are reassembled by the converter.
`FORE` and `BACK` are latched (R21; log 14); nothing else changes. -/
def Obligations.BlendMixesNibbles : Prop :=
  ∀ (s : State) (tone : Nibble) (fore back : Color16),
    s.params.readings.blendChannels = .nibble → s.params.readings.mixMode = .literal →
    let w := (s.params.tables.data.shade[tone.toNat]'tone.isLt).toNat
    let m := fun f b : Nibble => BitVec.ofNat 4 (((255 - w) * f.toNat + w * b.toNat) >>> 8)
    exec (.blend tone fore back) s = .next { s with
      hold := { s.hold with fore := fore, back := back }
      resp := some ((toDisplayColor s.params.readings.greenFill
        (color12 (m (fore.extractLsb' 12 4) (back.extractLsb' 12 4)) (m (fore.extractLsb' 7 4) (back.extractLsb' 7 4))
          (m (fore.extractLsb' 1 4) (back.extractLsb' 1 4)))).setWidth 32) }

/-- R146 (D10): with whole fields as channels, the fields are mixed in their own widths and an odd green sets the mask
`0x0060` under `GREEN_FILL = both` and nothing under `lsb_only` (D8). Under `MIX_MODE = exact_endpoints` each field
has the bypass of R145 (D11); the spec does not combine R145 with R146, and that combination is the model's (log 9).
`FORE` and `BACK` are latched (R21; log 14); nothing else changes. -/
def Obligations.BlendMixesFields : Prop :=
  ∀ (s : State) (tone : Nibble) (fore back : Color16),
    s.params.readings.blendChannels = .field →
    let w := (shadeOf s.params.tables tone).toNat
    let m := fun f b : Nat =>
      if s.params.readings.mixMode = .exactEndpoints ∧ (w = 0 ∨ f = b) then f
      else if s.params.readings.mixMode = .exactEndpoints ∧ w = 255 then b
      else ((255 - w) * f + w * b) >>> 8
    let g := m (fore.extractLsb' 5 6).toNat (back.extractLsb' 5 6).toNat
    exec (.blend tone fore back) s = .next { s with
      hold := { s.hold with fore := fore, back := back }
      resp := some ((BitVec.ofNat 32 (m (fore.extractLsb' 11 5).toNat (back.extractLsb' 11 5).toNat) <<< 11)
        ||| (BitVec.ofNat 32 g <<< 5)
        ||| BitVec.ofNat 32 (m (fore.extractLsb' 0 5).toNat (back.extractLsb' 0 5).toNat)
        ||| (if g % 2 = 1 ∧ s.params.readings.greenFill = .both then 0x0060 else 0)) }

/-- R145 (D11): under `MIX_MODE = exact_endpoints` with nibble channels, tone 0 gives the foreground's nibbles, tone
15 the background's, and equal operands their own, so that an in-image colour comes back unchanged; any other blend is
the formula's, reassembled as R139 says. `FORE` and `BACK` are latched (R21; log 14); nothing else changes. -/
def Obligations.ExactEndpointsKeepTheColour : Prop :=
  ∀ (s : State) (tone : Nibble) (fore back : Color16),
    s.params.readings.blendChannels = .nibble → s.params.readings.mixMode = .exactEndpoints →
    let w := shadeOf s.params.tables tone
    let m := fun f b : Nibble =>
      if w = 0 then f else if w = 255 then b else if f = b then f
      else BitVec.ofNat 4 (((255 - w.toNat) * f.toNat + w.toNat * b.toNat) >>> 8)
    let nibbles := fun c : Color16 => color12 (c.extractLsb' 12 4) (c.extractLsb' 7 4) (c.extractLsb' 1 4)
    let fill := s.params.readings.greenFill
    exec (.blend tone fore back) s = .next { s with
      hold := { s.hold with fore := fore, back := back }
      resp := some ((toDisplayColor fill
        (color12 (m (fore.extractLsb' 12 4) (back.extractLsb' 12 4)) (m (fore.extractLsb' 7 4) (back.extractLsb' 7 4))
          (m (fore.extractLsb' 1 4) (back.extractLsb' 1 4)))).setWidth 32) }
    ∧ blend s.params 0 fore back = toDisplayColor fill (nibbles fore)
    ∧ blend s.params 15 fore back = toDisplayColor fill (nibbles back)
    ∧ blend s.params tone fore fore = toDisplayColor fill (nibbles fore)
    ∧ ∀ c : Color12, toDisplayColor fill (nibbles (toDisplayColor fill c)) = toDisplayColor fill c

/-- R137 and R143: with weights up to 255 and channels up to 15 the products and their sum are at most 3825, so they
fit 12 bits, and the mix, which is the sum's upper part, is at most 14; it lies between the lesser channel less one
and the greater less one; equal channels give that channel less one; and it is monotone in the weight, so in the tone
(R136), downward or upward as the foreground or the background is the greater. -/
def Obligations.MixStaysBetweenItsChannels : Prop :=
  ∀ w f b : Nat, w ≤ 255 → f ≤ 15 → b ≤ 15 →
    (255 - w) * f ≤ 3825 ∧ w * b ≤ 3825 ∧ (255 - w) * f + w * b ≤ 3825
    ∧ mix w f b = ((255 - w) * f + w * b) >>> 8 ∧ mix w f b ≤ 14
    ∧ min f b - 1 ≤ mix w f b ∧ mix w f b ≤ max f b - 1
    ∧ mix w f f = f - 1
    ∧ (∀ w', w ≤ w' → w' ≤ 255 → (b ≤ f → mix w' f b ≤ mix w f b) ∧ (f ≤ b → mix w f b ≤ mix w' f b))
    ∧ ∀ (p : Tables) (t t' : Nibble), t ≤ t' →
        (b ≤ f → mix (shadeOf p t').toNat f b ≤ mix (shadeOf p t).toNat f b)
        ∧ (f ≤ b → mix (shadeOf p t).toNat f b ≤ mix (shadeOf p t').toNat f b)

/-- R141 and R142, under the default readings (D8, D10, D11): a blend at tone 0 depends on the foreground alone and at
tone 15 on the background alone, each nibble one less and 0 staying 0. White gives `0xE71C`, black `0x0000`, red
`0xE000`. -/
def Obligations.EndTonesLoseOne : Prop :=
  ∀ (p : Params) (fore back : Color16), p.readings = Config.readings →
    let less := fun n : Nibble => BitVec.ofNat 4 (n.toNat - 1)
    let lesser := fun c : Color16 => toDisplayColor .both
      (color12 (less (c.extractLsb' 12 4)) (less (c.extractLsb' 7 4)) (less (c.extractLsb' 1 4)))
    (∀ f b : Nat, f ≤ 15 → b ≤ 15 → mix 0 f b = f - 1 ∧ mix 255 f b = b - 1)
    ∧ blend p 0 fore back = lesser fore ∧ blend p 15 fore back = lesser back
    ∧ blend p 0 0xFFFF back = 0xE71C ∧ blend p 0 0x0000 back = 0x0000
    ∧ blend p 15 fore 0x0000 = 0x0000 ∧ blend p 15 fore 0xFFFF = 0xE71C ∧ blend p 15 fore 0xF800 = 0xE000

/-- R140, with nibble channels (D10) and either mix, the formula or the one with R145's bypass (D11): blending converted
colours is converting the blend of the 12-bit colours, nibble by nibble. -/
def Obligations.BlendCommutesWithConversion : Prop :=
  ∀ (p : Params) (tone : Nibble) (f12 b12 : Color12),
    p.readings.blendChannels = .nibble →
    let w := shadeOf p.tables tone
    let m := fun f b : Nibble => BitVec.ofNat 4 (match p.readings.mixMode with
      | .literal => mix w.toNat f.toNat b.toNat
      | .exactEndpoints =>
        if w = 0 then f.toNat else if w = 255 then b.toNat else if f = b then f.toNat else mix w.toNat f.toNat b.toNat)
    blend p tone (toDisplayColor p.readings.greenFill f12) (toDisplayColor p.readings.greenFill b12)
      = toDisplayColor p.readings.greenFill
          (color12 (m (red12 f12) (red12 b12)) (m (green12 f12) (green12 b12)) (m (blue12 f12) (blue12 b12)))

/-- R136 and R143, under nibble channels and the literal mix (`BLEND_CHANNELS = nibble`, `MIX_MODE = literal`; D10,
D11) and either green fill: for two Color16 operands the blended red, green and blue nibbles of a higher tone are at
least those of a lower one wherever the background's nibble is the greater, and at most where it is the lesser: a
glyph fades one way. Under `exact_endpoints` this is not so. -/
def Obligations.BlendIsMonotoneInTone : Prop :=
  ∀ (p : Params) (t t' : Nibble) (fore back : Color16),
    p.readings.blendChannels = .nibble → p.readings.mixMode = .literal → t ≤ t' →
    ∀ lo ∈ [12, 7, 1],
      (fore.extractLsb' lo 4 ≤ back.extractLsb' lo 4 →
        (blend p t fore back).extractLsb' lo 4 ≤ (blend p t' fore back).extractLsb' lo 4) ∧
      (back.extractLsb' lo 4 ≤ fore.extractLsb' lo 4 →
        (blend p t' fore back).extractLsb' lo 4 ≤ (blend p t fore back).extractLsb' lo 4)

/-! ### Font table and index -/

/-- R152 to R154: from any FontIndex in canonical form, `BUILD_INDEX` completes and leaves the built index (D13, D14):
each code of a record maps to that record, every other byte value to 0. Only the FontIndex and `SCAN` (log 14) are
written, and running it again gives the same FontIndex. -/
def Obligations.BuildIndexBuildsTheIndex : Prop :=
  ∀ s : State, Memory.wf (indexDefault s.params.tables) s.index = true →
    ∃ t, exec .buildIndex s = .next t
      ∧ (∀ (c : Byte) (i : Fin 95), fontCode s.params.tables i = c.setWidth 16 → (t.indexRead c).toNat = i.val)
      ∧ (∀ c : Byte, (∀ i : Fin 95, fontCode s.params.tables i ≠ c.setWidth 16) → t.indexRead c = 0)
      ∧ IndexBuilt t
      ∧ t = { s with index := t.index, count := { s.count with scan := 94 }, resp := none }
      ∧ ∃ u, exec .buildIndex t = .next u ∧ u.index = t.index

/-- R155: `LOOKUP` answers the FontIndex element of any byte value and is never refused; `CHAR` and `GLYPH` are
latched (R21; log 14), nothing else changes. R156 and R153, on a built index: a code from `0x20` to `0x7E` gives a
record whose code it is, every other code gives record 0; `0x20` gives 0, and `0x7E` gives 94, since the sentinel is
recorded (R155; D14). -/
def Obligations.LookupFindsTheGlyph : Prop :=
  ∀ (s : State) (code : Byte),
    exec (.lookup code) s = .next { s with
      hold := { s.hold with char := code, glyph := s.indexRead code }
      resp := some ((s.indexRead code).setWidth 32) } ∧
    (IndexBuilt s →
      (0x20 ≤ code.toNat ∧ code.toNat ≤ 0x7E →
        ∃ i : Fin 95, (s.indexRead code).toNat = i.val ∧ fontCode s.params.tables i = code.setWidth 16) ∧
      (code.toNat < 0x20 ∨ 0x7E < code.toNat → s.indexRead code = 0) ∧
      (code = 0x20 → s.indexRead code = 0) ∧ (code = 0x7E → s.indexRead code = 94))

/-! ### Pixel streamer -/

/-- R171 and R172, against the memoised rows of R168 (D15): with a transaction open and the selector at data,
`STREAM_GLYPH` appends exactly the 50 pixels of the cell of the record whose number `LOOKUP` gives (R155), top to
bottom and left to right, each blended on its own (R169). The tone of column `cx` in row `cy` is the nibble from bit
`12 - 4*cx` of the record's element `cy` (R79, R157). Only the holding registers, the memo and the counters change
besides. -/
def Obligations.StreamGlyphSendsTheCell : Prop :=
  ∀ (s : State) (char : Byte) (fore back : Color16) (g : Fin 95), s.framer.txn = true → s.framer.dc = .data →
    (s.indexRead char).toNat = g.val →
    ∃ t, exec (.streamGlyph char fore back) s = .next t
      ∧ t = { s with
          trace := s.trace ++ (List.finRange 10).flatMap fun cy => (List.finRange 5).map fun cx =>
            .tx16 (if h : cx.val < 4 ∧ 1 ≤ cy.val ∧ cy.val < 9 then
                blend s.params ((s.params.tables.data.font[g][cy.val]'h.2.2).extractLsb' (12 - 4 * cx.val) 4) fore back
              else blend s.params 15 fore back)
          hold := t.hold, memo := t.memo, count := t.count, resp := none }

/-- R216 with R155, R171 and R172: on a built index, for a character outside the printable range `LOOKUP` answers 0
and `STREAM_GLYPH` draws record 0: it sends the 50 pixels of that record's cell, as it does for the space. Nothing is
refused. -/
def Obligations.UnknownCharacterDrawsTheSpace : Prop :=
  ∀ (s : State) (char : Byte) (fore back : Color16), s.framer.txn = true → s.framer.dc = .data → IndexBuilt s →
    char.toNat < 0x20 ∨ 0x7E < char.toNat →
    (∃ v, exec (.lookup char) s = .next v ∧ v.resp = some 0) ∧
    ∃ t u, exec (.streamGlyph char fore back) s = .next t ∧ exec (.streamGlyph 0x20 fore back) s = .next u
      ∧ t.trace = s.trace ++ cellEvents s.params 0 fore back ∧ u.trace = t.trace
      ∧ (cellEvents s.params 0 fore back).length = 50

/-- R174: with a transaction open, the selector at data and an even count, `STREAM_FILL` sends half as many burst
words of the doubled colour, with a yield after each 50,000th (D28); `FILL` and `PAIR` are latched (log 14), nothing
else changes. Outside a bracket, with the selector not at data, and on an odd count it is refused, in this order (D16,
D18, D31). -/
def Obligations.StreamFillSendsBurstWords : Prop :=
  ∀ (s : State) (c16 : Color16) (n : Word),
    (s.framer.txn = true → s.framer.dc = .data → n.toNat % 2 = 0 → exec (.streamFill c16 n) s = .next { s with
      trace := s.trace ++ (List.range (n.toNat / 2)).flatMap fun pair =>
        .tx32 (packBurstWord c16 c16) :: if (pair + 1) % 50000 = 0 then [.yield] else []
      hold := { s.hold with fill := c16 }
      count := { s.count with pair := BitVec.ofNat 32 (n.toNat / 2) }
      resp := none }) ∧
    (s.framer.txn = true → s.framer.dc = .data → n.toNat % 2 = 1 →
      exec (.streamFill c16 n) s = .refused .oddPixelCount) ∧
    (s.framer.txn = true → s.framer.dc ≠ .data → exec (.streamFill c16 n) s = .refused .selectorUnknown) ∧
    (s.framer.txn = false → exec (.streamFill c16 n) s = .refused .noTransaction)

/-- R176: a completed fill of `n` pixels appends `n/2` words, all the same, and `floor((n/2) / 50000)` yields; its
bytes are `n` times the colour's two bytes, high byte first, all sent as data (D5, D28). -/
def Obligations.FillCountsWordsAndYields : Prop :=
  ∀ (s t : State) (c16 : Color16) (n : Word), exec (.streamFill c16 n) s = .next t →
    ∃ es, t.trace = s.trace ++ es
      ∧ es.count (.tx32 (packBurstWord c16 c16)) = n.toNat / 2
      ∧ es.count .yield = n.toNat / 2 / 50000
      ∧ es.length = n.toNat / 2 + n.toNat / 2 / 50000
      ∧ bytesFrom ⟨true, .asserted, .data⟩ es
          = (List.replicate n.toNat [(.data, c16.extractLsb' 8 8), (.data, c16.extractLsb' 0 8)]).flatten

/-- R173 and R220: `STREAM_GLYPH` runs neither outside a bracket nor with the selector not at data (D18); the bracket
is asked for first (D31). -/
def Obligations.StreamGlyphNeedsABracketAndData : Prop :=
  ∀ (s : State) (char : Byte) (fore back : Color16),
    (s.framer.txn = false → exec (.streamGlyph char fore back) s = .refused .noTransaction) ∧
    (s.framer.txn = true → s.framer.dc ≠ .data → exec (.streamGlyph char fore back) s = .refused .selectorUnknown)

/-! ### Address-window cache -/

/-- R187: with a transaction open, `SET_WINDOW` sends the column frame unless the cache holds the pair, then the row
frame likewise, then the memory-write command always, and the cache ends valid with the four coordinates; coordinates
are sent as given. The order and the closing command are D19. With no transaction open it is refused (D18). -/
def Obligations.SetWindowProgramsTheChangedAxes : Prop :=
  ∀ (s : State) (x1 x2 y1 y2 : Coord14),
    let a1 : Half := x1.setWidth 16
    let a2 : Half := x2.setWidth 16
    let b1 : Half := y1.setWidth 16
    let b2 : Half := y2.setWidth 16
    (s.framer.txn = true → exec (.setWindow x1 x2 y1 y2) s = .next { s with
      trace := s.trace
        ++ (if s.window.xv = true ∧ s.window.x1 = a1 ∧ s.window.x2 = a2 then []
            else [.dcCmd, .tx8 s.params.opcodes.bytes.caset, .dcData, .tx16 a1, .tx16 a2])
        ++ (if s.window.yv = true ∧ s.window.y1 = b1 ∧ s.window.y2 = b2 then []
            else [.dcCmd, .tx8 s.params.opcodes.bytes.paset, .dcData, .tx16 b1, .tx16 b2])
        ++ [.dcCmd, .tx8 s.params.opcodes.bytes.ramwr, .dcData]
      framer := ⟨true, s.framer.cs, .data⟩
      window := ⟨a1, a2, true, b1, b2, true⟩
      resp := none }) ∧
    (s.framer.txn = false → exec (.setWindow x1 x2 y1 y2) s = .refused .noTransaction)

/-- R188: of two consecutive `SET_WINDOW` calls with the same column pair, only the first can send a column command,
and likewise for rows; with both pairs the same the second sends the memory-write command alone. -/
def Obligations.SecondWindowIsElided : Prop :=
  ∀ (s t : State) (x1 x2 y1 y2 : Coord14), exec (.setWindow x1 x2 y1 y2) s = .next t →
    (∀ y1' y2' : Coord14, ∃ u, exec (.setWindow x1 x2 y1' y2') t = .next u
      ∧ u.trace = t.trace ++ rowEvents t (y1'.setWidth 16) (y2'.setWidth 16)
          ++ [.dcCmd, .tx8 s.params.opcodes.bytes.ramwr, .dcData]) ∧
    (∀ x1' x2' : Coord14, ∃ u, exec (.setWindow x1' x2' y1 y2) t = .next u
      ∧ u.trace = t.trace ++ columnEvents t (x1'.setWidth 16) (x2'.setWidth 16)
          ++ [.dcCmd, .tx8 s.params.opcodes.bytes.ramwr, .dcData]) ∧
    (∃ u, exec (.setWindow x1 x2 y1 y2) t = .next u
      ∧ u.trace = t.trace ++ [.dcCmd, .tx8 s.params.opcodes.bytes.ramwr, .dcData])

/-- R188 and D30: no operation ever makes a valid axis of the window cache invalid. -/
def Obligations.WindowCacheIsNeverInvalidated : Prop :=
  ∀ (s t : State), step s = .next t → (s.window.xv = true → t.window.xv = true) ∧ (s.window.yv = true → t.window.yv = true)

/-! ### Init sequencer -/

/-- R191 and R192: with no transaction open, `INIT_RUN` sends the script's records in table order, each as a whole
frame in its own bracket followed by its settle delay (long after sleep-out and display-on, else short if flagged),
and stops on the zero opcode; with one open it is refused (D18). The rule of the settle delay is D23. R82: the records
are those the script spells, each an opcode that is not zero, a length byte whose bits 6 to 0 are the payload length
and whose bit 7 is the flag, and the payload, up to the first zero opcode. That `SPTR`, dead after the operation (R23),
is left at that opcode is the model's (log 14). -/
def Obligations.InitRunReplaysTheScript : Prop :=
  ∀ s : State,
    (∃ after, s.params.tables.data.script = (initRecords s.params).flatMap (fun r =>
      r.opcode :: BitVec.ofNat 8 (r.payload.length + if r.flag then 128 else 0) :: r.payload) ++ 0 :: after) ∧
    (∀ r ∈ initRecords s.params, r.opcode ≠ 0 ∧ r.payload.length ≤ 127) ∧
    (s.framer.txn = false → ∃ t, exec .initRun s = .next t
      ∧ t = { s with
          trace := s.trace ++ (initRecords s.params).flatMap fun r =>
            [.busBegin s.params.tables.data.spiClockHz s.params.tables.data.spiMode, .csAssert, .dcCmd, .tx8 r.opcode,
              .dcData] ++ r.payload.map .tx8 ++ [.csDeassert, .busEnd]
            ++ (if r.opcode = s.params.opcodes.bytes.slpout ∨ r.opcode = s.params.opcodes.bytes.dispon then
                [.delay s.params.tables.data.delayLongMs]
              else if r.flag then [.delay s.params.tables.data.delayShortMs] else [])
          framer := if initRecords s.params = [] then s.framer else ⟨false, .deasserted, .data⟩
          count := { s.count with sptr := t.count.sptr }
          resp := none }
      ∧ s.params.tables.data.script[t.count.sptr]? = some 0
      ∧ s.params.tables.data.delayShortMs ≤ s.params.tables.data.delayLongMs) ∧
    (s.framer.txn = true → exec .initRun s = .refused .nestedTransaction)

/-- R193: every run of the script appends the same events, however often it has run, and writes none of the display
registers, the window cache, the FontIndex and `INITIALIZED`. -/
def Obligations.InitRunIsRepeatable : Prop :=
  ∀ s t : State, exec .initRun s = .next t →
    t.display = s.display ∧ t.window = s.window ∧ t.index = s.index ∧ t.initialized = s.initialized
    ∧ t.framer.txn = false
    ∧ ∃ u es, exec .initRun t = .next u ∧ t.trace = s.trace ++ es ∧ u.trace = t.trace ++ es

/-- R204: `BEGIN` is `INIT_RUN` and then the flag: with no transaction open it completes, `INITIALIZED` is true, and
the display registers stand (D26); with one open it is refused (D18). -/
def Obligations.BeginReplaysTheScriptAndSetsTheFlag : Prop :=
  ∀ s : State,
    (s.framer.txn = false → ∃ t, exec .initRun s = .next t
      ∧ exec .beginDriver s = .next { t with initialized := true } ∧ t.display = s.display) ∧
    (s.framer.txn = true → exec .beginDriver s = .refused .nestedTransaction)

/-! ### Facade -/

/-- R197 with the table of R194: with no transaction open, `SET_ROTATION(m)` writes the registers of rotation `m mod
4` and sends one memory-access-control frame with that rotation's byte, also when the rotation stands; the window
cache is not touched. With one open it is refused (D18). Which rotations are the landscape pair is D21 (log 5). -/
def Obligations.SetRotationWritesTheDisplay : Prop :=
  ∀ (s : State) (m : Byte),
    let r : BitVec 2 := BitVec.ofNat 2 (m.toNat % 4)
    (s.framer.txn = false → exec (.setRotation m) s = .next { s with
      display := if m.toNat % 4 = 0 ∨ m.toNat % 4 = 2 then ⟨r, 240, 320, 32, 48⟩ else ⟨r, 320, 240, 24, 64⟩
      trace := s.trace ++ [.busBegin s.params.tables.data.spiClockHz s.params.tables.data.spiMode, .csAssert, .dcCmd,
        .tx8 s.params.opcodes.bytes.madctl, .dcData, .tx8 (s.params.tables.data.madctl[r.toNat]'r.isLt), .csDeassert,
        .busEnd]
      framer := ⟨false, .deasserted, .data⟩
      resp := none }) ∧
    (s.framer.txn = true → exec (.setRotation m) s = .refused .nestedTransaction)

/-- R198: a rotation `m + 4` acts as `m`, and setting the same rotation again gives the same display registers and
appends the same events. The registers a rotation leaves are those of R194 for its number, so the rows and columns are
those of the width and height in force (R27); which rotations are the landscape pair is D21, from general knowledge
(PRESUMED, log 5). -/
def Obligations.RotationRepeatsModuloFour : Prop :=
  ∀ (s : State) (m : Byte),
    exec (.setRotation (m + 4)) s = exec (.setRotation m) s ∧
    ∀ t, exec (.setRotation m) s = .next t → DisplayAgrees t ∧ ∃ u es, exec (.setRotation m) t = .next u
      ∧ u.display = t.display ∧ t.trace = s.trace ++ es ∧ u.trace = t.trace ++ es

/-- R200 with R175 and R176: with no transaction open and the display registers those of the rotation, `FILL_SCREEN`
sends one bracket with the full-screen window and 38,400 burst words of the converted colour, none of them followed by
a yield (D28); with one open it is refused (D18). `FILL` and `PAIR` are latched (log 14). -/
def Obligations.FillScreenSendsEveryPixel : Prop :=
  ∀ (s : State) (c12 : Color12),
    (s.framer.txn = false → DisplayAgrees s →
      let c := toDisplayColor s.params.readings.greenFill c12
      let right := s.display.width - 1
      let bottom := s.display.height - 1
      exec (.fillScreen c12) s = .next { s with
        trace := s.trace ++ openEvents s.params ++ windowEvents s 0 right 0 bottom
          ++ List.replicate 38400 (.tx32 (packBurstWord c c)) ++ closeEvents
        framer := ⟨false, .deasserted, .data⟩
        window := ⟨0, right, true, 0, bottom, true⟩
        hold := { s.hold with fill := c }
        count := { s.count with pair := 38400 }
        resp := none }) ∧
    (s.framer.txn = true → exec (.fillScreen c12) s = .refused .nestedTransaction)

/-- R94 and R200: `FILL_SCREEN` is the sequence of its parts, the colour conversion first, each carried out as an
operation of its own. -/
def Obligations.FillScreenIsItsExpansion : Prop :=
  ∀ (s : State) (c12 : Color12), s.framer.txn = false → DisplayAgrees s →
    exec (.fillScreen c12) s = execAll [.toDisplayColor c12, .startTransaction,
      .setWindow 0 (BitVec.ofNat 14 (s.display.width.toNat - 1)) 0 (BitVec.ofNat 14 (s.display.height.toNat - 1)),
      .streamFill (toDisplayColor s.params.readings.greenFill c12) 76800, .endTransaction] s

/-- R201: a cell outside the grid is a no-op in any state, also while a transaction is open: `DRAW_CHAR` completes,
appends nothing and writes nothing. -/
def Obligations.DrawCharClipsOutsideTheGrid : Prop :=
  ∀ (s : State) (col row char : Byte) (fore12 back12 : Color12),
    s.display.columns.toNat ≤ col.toNat ∨ s.display.rows.toNat ≤ row.toNat →
    exec (.drawChar col row char fore12 back12) s = .next { s with resp := none }

/-- R202: a cell inside the grid, with no transaction open, is drawn in one bracket: the window of its 5 × 10
rectangle, then the 50 pixels of the record whose number `LOOKUP` gives (R155, R172), in the converted colours. With a transaction open it is refused (D18). -/
def Obligations.DrawCharDrawsTheCell : Prop :=
  ∀ (s : State) (col row char : Byte) (fore12 back12 : Color12),
    col.toNat < s.display.columns.toNat → row.toNat < s.display.rows.toNat →
    (∀ g : Fin 95, s.framer.txn = false → (s.indexRead char).toNat = g.val →
      let x := BitVec.ofNat 16 (5 * col.toNat)
      let y := BitVec.ofNat 16 (10 * row.toNat)
      let fill := s.params.readings.greenFill
      ∃ t, exec (.drawChar col row char fore12 back12) s = .next t
        ∧ t = { s with
            trace := s.trace ++ openEvents s.params ++ windowEvents s x (x + 4) y (y + 9)
              ++ cellEvents s.params g (toDisplayColor fill fore12) (toDisplayColor fill back12) ++ closeEvents
            framer := ⟨false, .deasserted, .data⟩
            window := ⟨x, x + 4, true, y, y + 9, true⟩
            hold := t.hold, memo := t.memo, count := t.count, resp := none }) ∧
    (s.framer.txn = true → exec (.drawChar col row char fore12 back12) s = .refused .nestedTransaction)

/-- R94 and R202: an unclipped `DRAW_CHAR` is the sequence of its parts, the two colour conversions first, each carried
out as an operation of its own. -/
def Obligations.DrawCharIsItsExpansion : Prop :=
  ∀ (s : State) (col row char : Byte) (fore12 back12 : Color12), s.framer.txn = false →
    col.toNat < s.display.columns.toNat → row.toNat < s.display.rows.toNat →
    exec (.drawChar col row char fore12 back12) s = execAll [.toDisplayColor fore12, .toDisplayColor back12,
      .startTransaction,
      .setWindow (BitVec.ofNat 14 (5 * col.toNat)) (BitVec.ofNat 14 (5 * col.toNat + 4))
        (BitVec.ofNat 14 (10 * row.toNat)) (BitVec.ofNat 14 (10 * row.toNat + 9)),
      .streamGlyph char (toDisplayColor s.params.readings.greenFill fore12)
        (toDisplayColor s.params.readings.greenFill back12), .endTransaction] s

/-- R203: an unclipped `DRAW_CHAR` puts between 101 and 111 bytes on the wire: 101, and 5 more for each axis whose
pair the window cache does not hold. -/
def Obligations.DrawCharSendsThisManyBytes : Prop :=
  ∀ (s : State) (col row char : Byte) (fore12 back12 : Color12), Inv s → s.framer.txn = false →
    col.toNat < s.display.columns.toNat → row.toNat < s.display.rows.toNat →
    let x := BitVec.ofNat 16 (5 * col.toNat)
    let y := BitVec.ofNat 16 (10 * row.toNat)
    ∃ t, exec (.drawChar col row char fore12 back12) s = .next t
      ∧ (bytes t.trace).length = (bytes s.trace).length + 101
          + (if s.window.xv = true ∧ s.window.x1 = x ∧ s.window.x2 = x + 4 then 0 else 5)
          + (if s.window.yv = true ∧ s.window.y1 = y ∧ s.window.y2 = y + 9 then 0 else 5)

/-- R206, R208, R209, R210: the four reads answer their registers, zero-extended, in any state, and change nothing but
the response. -/
def Obligations.ReadsAnswerTheirRegisters : Prop :=
  ∀ s : State,
    ∀ p ∈ ([(.getWidth, s.display.width), (.getHeight, s.display.height), (.getRows, s.display.rows),
        (.getColumns, s.display.columns)] : List (Instr × Half)),
      exec p.1 s = .next { s with resp := some (BitVec.ofNat 32 p.2.toNat) }

/-! ### Refusals -/

/-- R222 reasons 3 to 6, with R220's order of tests: on a display whose registers are those of its rotation, an
operation is refused for a reason exactly when the list names the operation for it and its condition holds with the
tests before it passed: `DRAW_CHAR` only unclipped, `STREAM_FILL`'s parity only in a bracket with the selector at data
(D18, D31, D32). -/
def Obligations.RefusalsAreTheListedOnes : Prop :=
  ∀ (i : Instr) (s : State) (r : Refusal), DisplayAgrees s → (exec i s = .refused r ↔
    (r = .nestedTransaction ∧ s.framer.txn = true ∧ opensBracket i = true
      ∧ ∀ col row char fore12 back12, i = .drawChar col row char fore12 back12 →
          col.toNat < s.display.columns.toNat ∧ row.toNat < s.display.rows.toNat) ∨
    (r = .noTransaction ∧ s.framer.txn = false ∧ needsBracket i = true) ∨
    (r = .selectorUnknown ∧ s.framer.txn = true ∧ s.framer.dc ≠ .data ∧ sendsData i = true) ∨
    (r = .oddPixelCount ∧ s.framer.txn = true ∧ s.framer.dc = .data
      ∧ ∃ c16 n, i = .streamFill c16 n ∧ n.toNat % 2 = 1))

/-- R215: no operation faults: on a built index each ends completed or refused. -/
def Obligations.NoOperationFaults : Prop :=
  ∀ (i : Instr) (s : State), IndexBuilt s → (∃ t, exec i s = .next t) ∨ (∃ r, exec i s = .refused r)

/-- R109, R222 and R231, under the premise that the transport, the delay and the yield complete every event (R246,
D29; log 12): a public operation issued with no transaction open is never refused, completes, and leaves none open and
chip-select deasserted. On a stalled bus it never completes. -/
def Obligations.PublicOperationsCompleteAndRelease : Prop :=
  ∀ (i : Instr) (s : State), isPublic i = true → Inv s → s.framer.txn = false →
    ∃ t, exec i s = .next t ∧ t.framer.txn = false ∧ t.framer.cs = .deasserted

/-! ### The whole machine -/

/-- R35 (D25): the values the spec gives for reset, and the FontIndex reading as the built index (R153). -/
def Obligations.ResetValuesAreTheSpecs : Prop :=
  State.reset.framer = ⟨false, .deasserted, .unknown⟩
    ∧ State.reset.display = ⟨0, 240, 320, 32, 48⟩
    ∧ State.reset.initialized = false ∧ State.reset.window.xv = false ∧ State.reset.window.yv = false
    ∧ State.reset.memo.valid = false ∧ State.reset.trace = []
    ∧ (∀ (c : Byte) (i : Fin 95), fontCode State.reset.params.tables i = c.setWidth 16 →
        (State.reset.indexRead c).toNat = i.val)
    ∧ ∀ c : Byte, (∀ i : Fin 95, fontCode State.reset.params.tables i ≠ c.setWidth 16) → State.reset.indexRead c = 0

/-- The invariant holds after reset, whatever the parameters. -/
def Obligations.InvHoldsAfterReset : Prop :=
  Inv State.reset ∧ ∀ p : Params, Inv (State.resetWith p)

/-- Every step keeps the invariant (R24, R27, R67, R108): the line registers follow the lines as the trace leaves
them, every event stands where it may and no byte was sent before a command byte; the selector is not left at command;
the display registers are those of the rotation; and the FontIndex is canonical and built. -/
def Obligations.StepKeepsTheInvariant : Prop :=
  ∀ s t : State, Inv s → step s = .next t → Inv t

/-- R108 and R14: on a trace the line registers follow, every data byte is preceded by a command byte; no byte is lost
from the projection, since every word was sent with chip-select asserted; and none was sent with the selector unknown.
-/
def Obligations.NoByteOutsideABracket : Prop :=
  ∀ s : State, LinesAgree s →
    (∀ before b after, bytes s.trace = before ++ (.data, b) :: after → ∃ code, (.cmd, code) ∈ before) ∧
    (bytes s.trace).map (·.2) = s.trace.flatMap Event.wireBytes ∧ ∀ p ∈ bytes s.trace, p.1 ≠ .unknown

/-- R32: the wire trace is empty at reset, append-only, and read by no operation: on any other trace an operation ends
the same way, appends the same events and leaves the same state otherwise. -/
def Obligations.TraceOnlyGrowsAndIsNeverRead : Prop :=
  State.reset.trace = [] ∧
  ∀ (i : Instr) (s : State) (w : List Event),
    (∀ t, exec i s = .next t → ∃ es, t.trace = s.trace ++ es ∧ exec i { s with trace := w } = .next { t with trace := w ++ es }) ∧
    (∀ r, exec i s = .refused r → exec i { s with trace := w } = .refused r) ∧
    (∀ r, exec i s = .fault r → exec i { s with trace := w } = .fault r)

/-- R36, R34: which operation may write which state that lasts. The display registers, `INITIALIZED`, the window
cache, the FontIndex, `TXN`, `CS` and `DC` are written only by the operations R36 names and by those that perform
them; the pure operations and the reads write nothing but holding registers and the response, and emit nothing; and no
operation writes a parameter or the ports it was taken from. The wire command bytes, the model's own form (log 2),
write as `WRITE_COMMAND` and `SEND_COMMAND` do. -/
def Obligations.OnlyNamedOperationsWriteState : Prop :=
  ∀ (i : Instr) (s t : State), exec i s = .next t →
    ((∀ m, i ≠ .setRotation m) → t.display = s.display) ∧
    (i ≠ .beginDriver → t.initialized = s.initialized) ∧
    ((∀ x1 x2 y1 y2, i ≠ .setWindow x1 x2 y1 y2) → (∀ c, i ≠ .fillScreen c) →
      (∀ col row char f b, i ≠ .drawChar col row char f b) → t.window = s.window) ∧
    (i ≠ .buildIndex → ∀ c : Byte, t.indexRead c = s.indexRead c) ∧
    (i ≠ .startTransaction → i ≠ .endTransaction →
      t.framer.txn = s.framer.txn ∧ (LinesAgree s → t.framer.cs = s.framer.cs)) ∧
    (performsWriteCommand i = false → t.framer.dc = s.framer.dc) ∧ (t.framer.dc = s.framer.dc ∨ t.framer.dc = .data) ∧
    (isPure i = true → t = { s with hold := t.hold, resp := t.resp }) ∧
    t.params = s.params ∧ t.requests = s.requests ∧ t.bytePort = s.bytePort

/-- R205: no operation is gated on `INITIALIZED`: changing it changes neither whether an operation completes nor any
event or state it leaves, but the flag itself (D26). -/
def Obligations.InitializedGatesNothing : Prop :=
  ∀ (i : Instr) (s : State) (flag : Bool),
    (∀ t, exec i s = .next t →
      ∃ u, exec i { s with initialized := flag } = .next u ∧ u = { t with initialized := u.initialized }) ∧
    (∀ r, exec i s = .refused r → exec i { s with initialized := flag } = .refused r) ∧
    (∀ r, exec i s = .fault r → exec i { s with initialized := flag } = .fault r)

/-- R21 to R23 and R169: no holding register, memo or counter carries a value from one operation to the next: whatever
they hold at its start, an operation ends the same way and leaves the same events and lasting state. -/
def Obligations.TransientRegistersCarryNothing : Prop :=
  ∀ (i : Instr) (s : State) (hold : Holding) (memo : Memo) (count : Counters),
    (∀ t, exec i s = .next t →
      ∃ u, exec i { s with hold := hold, memo := memo, count := count } = .next u
        ∧ u = { t with hold := u.hold, memo := u.memo, count := u.count }) ∧
    (∀ r, exec i s = .refused r → exec i { s with hold := hold, memo := memo, count := count } = .refused r) ∧
    (∀ r, exec i s = .fault r → exec i { s with hold := hold, memo := memo, count := count } = .fault r)
end

