-- ==== Sys2Proof/Laws/Decode.lean ====
section
/-! SUPPORT. The small lemmas of the decoder and the encoder: fields and reserved bits as arithmetic on the word's value. -/

namespace Sys2Proof

theorem field_toNat (q : ReqWord) (lo len : Nat) : (field q lo len).toNat = q.toNat / 2 ^ lo % 2 ^ len := by
  rw [field, BitVec.extractLsb'_toNat, Nat.shiftRight_eq_div_pow]

theorem opNumber_toNat (q : ReqWord) : (opNumber q).toNat = q.toNat / 2 ^ 56 := by
  have := q.isLt
  rw [opNumber, field_toNat]
  omega

theorem payloadCount_eq (q : ReqWord) : payloadCount q = q.toNat / 2 ^ 8 % 2 ^ 7 := field_toNat q 8 7

/-- The value of a head word. -/
theorem headWord_toNat {op operands : Nat} (hop : op < 256) (hn : operands < 72057594037927936) :
    (BitVec.ofNat 64 (op * 2 ^ 56 + operands)).toNat = op * 2 ^ 56 + operands := by
  rw [BitVec.toNat_ofNat]
  omega

/-- The operation number of a head word. -/
theorem opNumber_headWord {op operands : Nat} (hop : op < 256) (hn : operands < 72057594037927936) :
    opNumber (BitVec.ofNat 64 (op * 2 ^ 56 + operands)) = BitVec.ofNat 8 op := by
  apply BitVec.eq_of_toNat_eq
  rw [opNumber_toNat, headWord_toNat hop hn, BitVec.toNat_ofNat]
  omega

/-- The bits of a mask of `len` ones from `lo` on. -/
theorem getLsbD_mask (lo len i : Nat) (hi : i < 64) :
    ((BitVec.allOnes len).setWidth 64 <<< lo : ReqWord).getLsbD i = (decide (lo ≤ i) && decide (i < lo + len)) := by
  simp only [BitVec.getLsbD_shiftLeft, BitVec.getLsbD_setWidth, BitVec.getLsbD_allOnes, hi, decide_true, Bool.true_and]
  by_cases h1 : lo ≤ i
  · simp only [show ¬i < lo by omega, h1, decide_false, decide_true, Bool.not_false, Bool.true_and,
      show i - lo < 64 by omega]
    exact decide_eq_decide.2 (by omega)
  · simp [show i < lo by omega, h1]

/-- A word has no bit under a mask of `len` ones from `lo` on exactly when that field of its value is 0. -/
theorem and_range_eq_zero (q : ReqWord) (lo len : Nat) (h : lo + len ≤ 64) :
    q &&& (BitVec.allOnes len).setWidth 64 <<< lo = 0 ↔ q.toNat / 2 ^ lo % 2 ^ len = 0 := by
  constructor
  · intro h0
    apply Nat.eq_of_testBit_eq
    intro i
    have hb := congrArg (fun x : ReqWord => x.getLsbD (i + lo)) h0
    simp only [Nat.testBit_mod_two_pow, Nat.testBit_div_two_pow, Nat.zero_testBit, Bool.and_eq_false_imp, decide_eq_true_eq]
    intro hi
    simp only [BitVec.getLsbD_and, getLsbD_mask lo len (i + lo) (by omega), show lo ≤ i + lo by omega,
      show i + lo < lo + len by omega, decide_true, Bool.and_true] at hb
    simpa [BitVec.getLsbD] using hb
  · intro h0
    apply BitVec.eq_of_getLsbD_eq
    intro i hi
    have hb := congrArg (fun x : Nat => x.testBit (i - lo)) h0
    simp only [Nat.testBit_mod_two_pow, Nat.testBit_div_two_pow, Nat.zero_testBit, Bool.and_eq_false_imp,
      decide_eq_true_eq] at hb
    rw [BitVec.getLsbD_and, getLsbD_mask lo len i hi]
    by_cases hr : lo ≤ i ∧ i < lo + len
    · have := hb (by omega)
      rw [show i - lo + lo = i by omega] at this
      simp [BitVec.getLsbD, this]
    · rcases not_and_or.1 hr with hr | hr <;> simp [hr]

theorem accept_eq_ok {q reserved : ReqWord} {i j : Instr} {bytes rest : List Byte} :
    accept q reserved i bytes = .ok j rest ↔ q &&& reserved = 0 ∧ i = j ∧ bytes = rest := by
  unfold accept; split <;> simp_all

theorem accept_eq_reservedBits {q reserved : ReqWord} {i : Instr} {bytes : List Byte} :
    accept q reserved i bytes = .reservedBits ↔ q &&& reserved ≠ 0 := by
  unfold accept; split <;> simp_all

/-! ### The decoder's table, one row a lemma -/

variable {q : ReqWord} {bytes : List Byte}

theorem decodeHead_01 (h : opNumber q = 0x01#8) :
    decodeHead q bytes = accept q 0x00FFFFFFFFFFFFFF .startTransaction bytes := by
  simp [decodeHead, h]
theorem decodeHead_02 (h : opNumber q = 0x02#8) :
    decodeHead q bytes = accept q 0x00FFFFFFFFFFFFFF .endTransaction bytes := by
  simp [decodeHead, h]
theorem decodeHead_03 (h : opNumber q = 0x03#8) :
    decodeHead q bytes = acceptSend q 0x00FFFFFFFFFF8000 bytes := by
  simp [decodeHead, h]
theorem decodeHead_04 (h : opNumber q = 0x04#8) :
    decodeHead q bytes = accept q 0x00FFFFFFFFFFFF00 (.writeCommand (field q 0 8)) bytes := by
  simp [decodeHead, h]
theorem decodeHead_05 (h : opNumber q = 0x05#8) :
    decodeHead q bytes = accept q 0x00FFFFFFFFFFFF00 (.writeData8 (field q 0 8)) bytes := by
  simp [decodeHead, h]
theorem decodeHead_06 (h : opNumber q = 0x06#8) :
    decodeHead q bytes = accept q 0x00FFFFFFFFFF0000 (.writeData16 (field q 0 16)) bytes := by
  simp [decodeHead, h]
theorem decodeHead_07 (h : opNumber q = 0x07#8) :
    decodeHead q bytes = accept q 0x00FFFFFF00000000 (.writeData32 (field q 0 32)) bytes := by
  simp [decodeHead, h]
theorem decodeHead_10 (h : opNumber q = 0x10#8) :
    decodeHead q bytes = accept q 0x00FFFFFFFFFFF000 (.toDisplayColor (field q 0 12)) bytes := by
  simp [decodeHead, h]
theorem decodeHead_11 (h : opNumber q = 0x11#8) :
    decodeHead q bytes = accept q 0x00FFFFFF00000000 (.packBurstWord (field q 0 16) (field q 16 16)) bytes := by
  simp [decodeHead, h]
theorem decodeHead_18 (h : opNumber q = 0x18#8) :
    decodeHead q bytes = accept q 0x00FFFFF000000000 (.blend (field q 32 4) (field q 16 16) (field q 0 16)) bytes := by
  simp [decodeHead, h]
theorem decodeHead_20 (h : opNumber q = 0x20#8) :
    decodeHead q bytes = accept q 0x00FFFFFFFFFFFFFF .buildIndex bytes := by
  simp [decodeHead, h]
theorem decodeHead_21 (h : opNumber q = 0x21#8) :
    decodeHead q bytes = accept q 0x00FFFFFFFFFFFF00 (.lookup (field q 0 8)) bytes := by
  simp [decodeHead, h]
theorem decodeHead_28 (h : opNumber q = 0x28#8) :
    decodeHead q bytes = accept q 0x00FFFF0000000000 (.streamGlyph (field q 32 8) (field q 16 16) (field q 0 16)) bytes := by
  simp [decodeHead, h]
theorem decodeHead_29 (h : opNumber q = 0x29#8) :
    decodeHead q bytes = accept q 0x00FF000000000000 (.streamFill (field q 32 16) (field q 0 32)) bytes := by
  simp [decodeHead, h]
theorem decodeHead_30 (h : opNumber q = 0x30#8) :
    decodeHead q bytes = accept q 0 (.setWindow (field q 42 14) (field q 28 14) (field q 14 14) (field q 0 14)) bytes := by
  simp [decodeHead, h]
theorem decodeHead_31 (h : opNumber q = 0x31#8) :
    decodeHead q bytes = accept q 0x00FFFFFFFFFFFFFF .initRun bytes := by
  simp [decodeHead, h]
theorem decodeHead_38 (h : opNumber q = 0x38#8) :
    decodeHead q bytes = accept q 0x00FFFFFFFFFFFFFF .beginDriver bytes := by
  simp [decodeHead, h]
theorem decodeHead_39 (h : opNumber q = 0x39#8) :
    decodeHead q bytes = accept q 0x00FFFFFFFFFFFF00 (.setRotation (field q 0 8)) bytes := by
  simp [decodeHead, h]
theorem decodeHead_3a (h : opNumber q = 0x3A#8) :
    decodeHead q bytes = accept q 0x00FFFFFFFFFFF000 (.fillScreen (field q 0 12)) bytes := by
  simp [decodeHead, h]
theorem decodeHead_3b (h : opNumber q = 0x3B#8) :
    decodeHead q bytes = accept q 0x00000000F000F000 (.drawChar (field q 48 8) (field q 40 8) (field q 32 8) (field q 16 12) (field q 0 12)) bytes := by
  simp [decodeHead, h]
theorem decodeHead_3c (h : opNumber q = 0x3C#8) :
    decodeHead q bytes = accept q 0x00FFFFFFFFFFFFFF .getWidth bytes := by
  simp [decodeHead, h]
theorem decodeHead_3d (h : opNumber q = 0x3D#8) :
    decodeHead q bytes = accept q 0x00FFFFFFFFFFFFFF .getHeight bytes := by
  simp [decodeHead, h]
theorem decodeHead_3e (h : opNumber q = 0x3E#8) :
    decodeHead q bytes = accept q 0x00FFFFFFFFFFFFFF .getRows bytes := by
  simp [decodeHead, h]
theorem decodeHead_3f (h : opNumber q = 0x3F#8) :
    decodeHead q bytes = accept q 0x00FFFFFFFFFFFFFF .getColumns bytes := by
  simp [decodeHead, h]

/-- The decoder knows no other operation number. -/
theorem decodeHead_unassigned (h : opNumber q ∉ ([0x01, 0x02, 0x03, 0x04, 0x05, 0x06, 0x07, 0x10, 0x11, 0x18, 0x20, 0x21,
    0x28, 0x29, 0x30, 0x31, 0x38, 0x39, 0x3A, 0x3B, 0x3C, 0x3D, 0x3E, 0x3F] : List Byte)) :
    decodeHead q bytes = .unknownOp := by
  unfold decodeHead
  split <;> first | rfl | exact absurd (by simp_all) h

end Sys2Proof
end

