-- ==== Sys2Proof/Laws/State.lean ====
section
/-! SUPPORT. The small lemmas of the shared updates of the state: one for each field, so that no proof unfolds a record
update. -/

namespace Sys2Proof.Machine

/-! `emits` -/

@[simp] theorem State.emits_requests (s : State) (es : List Event) : (s.emits es).requests = s.requests := rfl
@[simp] theorem State.emits_bytePort (s : State) (es : List Event) : (s.emits es).bytePort = s.bytePort := rfl
@[simp] theorem State.emits_resp (s : State) (es : List Event) : (s.emits es).resp = s.resp := rfl
@[simp] theorem State.emits_framer (s : State) (es : List Event) : (s.emits es).framer = s.framer := rfl
@[simp] theorem State.emits_display (s : State) (es : List Event) : (s.emits es).display = s.display := rfl
@[simp] theorem State.emits_initialized (s : State) (es : List Event) : (s.emits es).initialized = s.initialized := rfl
@[simp] theorem State.emits_window (s : State) (es : List Event) : (s.emits es).window = s.window := rfl
@[simp] theorem State.emits_index (s : State) (es : List Event) : (s.emits es).index = s.index := rfl
@[simp] theorem State.emits_memo (s : State) (es : List Event) : (s.emits es).memo = s.memo := rfl
@[simp] theorem State.emits_hold (s : State) (es : List Event) : (s.emits es).hold = s.hold := rfl
@[simp] theorem State.emits_count (s : State) (es : List Event) : (s.emits es).count = s.count := rfl
@[simp] theorem State.emits_trace (s : State) (es : List Event) : (s.emits es).trace = s.trace ++ es := rfl
@[simp] theorem State.emits_params (s : State) (es : List Event) : (s.emits es).params = s.params := rfl

/-! `emit` -/

@[simp] theorem State.emit_requests (s : State) (e : Event) : (s.emit e).requests = s.requests := rfl
@[simp] theorem State.emit_bytePort (s : State) (e : Event) : (s.emit e).bytePort = s.bytePort := rfl
@[simp] theorem State.emit_resp (s : State) (e : Event) : (s.emit e).resp = s.resp := rfl
@[simp] theorem State.emit_framer (s : State) (e : Event) : (s.emit e).framer = s.framer := rfl
@[simp] theorem State.emit_display (s : State) (e : Event) : (s.emit e).display = s.display := rfl
@[simp] theorem State.emit_initialized (s : State) (e : Event) : (s.emit e).initialized = s.initialized := rfl
@[simp] theorem State.emit_window (s : State) (e : Event) : (s.emit e).window = s.window := rfl
@[simp] theorem State.emit_index (s : State) (e : Event) : (s.emit e).index = s.index := rfl
@[simp] theorem State.emit_memo (s : State) (e : Event) : (s.emit e).memo = s.memo := rfl
@[simp] theorem State.emit_hold (s : State) (e : Event) : (s.emit e).hold = s.hold := rfl
@[simp] theorem State.emit_count (s : State) (e : Event) : (s.emit e).count = s.count := rfl
@[simp] theorem State.emit_trace (s : State) (e : Event) : (s.emit e).trace = s.trace ++ [e] := rfl
@[simp] theorem State.emit_params (s : State) (e : Event) : (s.emit e).params = s.params := rfl

/-! `finish` -/

@[simp] theorem State.finish_requests (s : State) : s.finish.requests = s.requests := rfl
@[simp] theorem State.finish_bytePort (s : State) : s.finish.bytePort = s.bytePort := rfl
@[simp] theorem State.finish_resp (s : State) : s.finish.resp = none := rfl
@[simp] theorem State.finish_framer (s : State) : s.finish.framer = s.framer := rfl
@[simp] theorem State.finish_display (s : State) : s.finish.display = s.display := rfl
@[simp] theorem State.finish_initialized (s : State) : s.finish.initialized = s.initialized := rfl
@[simp] theorem State.finish_window (s : State) : s.finish.window = s.window := rfl
@[simp] theorem State.finish_index (s : State) : s.finish.index = s.index := rfl
@[simp] theorem State.finish_memo (s : State) : s.finish.memo = s.memo := rfl
@[simp] theorem State.finish_hold (s : State) : s.finish.hold = s.hold := rfl
@[simp] theorem State.finish_count (s : State) : s.finish.count = s.count := rfl
@[simp] theorem State.finish_trace (s : State) : s.finish.trace = s.trace := rfl
@[simp] theorem State.finish_params (s : State) : s.finish.params = s.params := rfl

/-! `respond` -/

@[simp] theorem State.respond_requests (s : State) {n : Nat} (v : BitVec n) : (s.respond v).requests = s.requests := rfl
@[simp] theorem State.respond_bytePort (s : State) {n : Nat} (v : BitVec n) : (s.respond v).bytePort = s.bytePort := rfl
@[simp] theorem State.respond_resp (s : State) {n : Nat} (v : BitVec n) : (s.respond v).resp = some (v.setWidth 32) := rfl
@[simp] theorem State.respond_framer (s : State) {n : Nat} (v : BitVec n) : (s.respond v).framer = s.framer := rfl
@[simp] theorem State.respond_display (s : State) {n : Nat} (v : BitVec n) : (s.respond v).display = s.display := rfl
@[simp] theorem State.respond_initialized (s : State) {n : Nat} (v : BitVec n) : (s.respond v).initialized = s.initialized := rfl
@[simp] theorem State.respond_window (s : State) {n : Nat} (v : BitVec n) : (s.respond v).window = s.window := rfl
@[simp] theorem State.respond_index (s : State) {n : Nat} (v : BitVec n) : (s.respond v).index = s.index := rfl
@[simp] theorem State.respond_memo (s : State) {n : Nat} (v : BitVec n) : (s.respond v).memo = s.memo := rfl
@[simp] theorem State.respond_hold (s : State) {n : Nat} (v : BitVec n) : (s.respond v).hold = s.hold := rfl
@[simp] theorem State.respond_count (s : State) {n : Nat} (v : BitVec n) : (s.respond v).count = s.count := rfl
@[simp] theorem State.respond_trace (s : State) {n : Nat} (v : BitVec n) : (s.respond v).trace = s.trace := rfl
@[simp] theorem State.respond_params (s : State) {n : Nat} (v : BitVec n) : (s.respond v).params = s.params := rfl

/-! `indexWrite` -/

@[simp] theorem State.indexWrite_requests (s : State) (key v : Byte) : (s.indexWrite key v).requests = s.requests := rfl
@[simp] theorem State.indexWrite_bytePort (s : State) (key v : Byte) : (s.indexWrite key v).bytePort = s.bytePort := rfl
@[simp] theorem State.indexWrite_resp (s : State) (key v : Byte) : (s.indexWrite key v).resp = s.resp := rfl
@[simp] theorem State.indexWrite_framer (s : State) (key v : Byte) : (s.indexWrite key v).framer = s.framer := rfl
@[simp] theorem State.indexWrite_display (s : State) (key v : Byte) : (s.indexWrite key v).display = s.display := rfl
@[simp] theorem State.indexWrite_initialized (s : State) (key v : Byte) : (s.indexWrite key v).initialized = s.initialized := rfl
@[simp] theorem State.indexWrite_window (s : State) (key v : Byte) : (s.indexWrite key v).window = s.window := rfl
@[simp] theorem State.indexWrite_index (s : State) (key v : Byte) : (s.indexWrite key v).index = Memory.write (indexDefault s.params.tables) s.index key.toNat v := rfl
@[simp] theorem State.indexWrite_memo (s : State) (key v : Byte) : (s.indexWrite key v).memo = s.memo := rfl
@[simp] theorem State.indexWrite_hold (s : State) (key v : Byte) : (s.indexWrite key v).hold = s.hold := rfl
@[simp] theorem State.indexWrite_count (s : State) (key v : Byte) : (s.indexWrite key v).count = s.count := rfl
@[simp] theorem State.indexWrite_trace (s : State) (key v : Byte) : (s.indexWrite key v).trace = s.trace := rfl
@[simp] theorem State.indexWrite_params (s : State) (key v : Byte) : (s.indexWrite key v).params = s.params := rfl

/-! `startTransaction` -/

@[simp] theorem State.startTransaction_requests (s : State) : s.startTransaction.requests = s.requests := rfl
@[simp] theorem State.startTransaction_bytePort (s : State) : s.startTransaction.bytePort = s.bytePort := rfl
@[simp] theorem State.startTransaction_resp (s : State) : s.startTransaction.resp = s.resp := rfl
@[simp] theorem State.startTransaction_framer (s : State) : s.startTransaction.framer = ⟨true, .asserted, s.framer.dc⟩ := rfl
@[simp] theorem State.startTransaction_display (s : State) : s.startTransaction.display = s.display := rfl
@[simp] theorem State.startTransaction_initialized (s : State) : s.startTransaction.initialized = s.initialized := rfl
@[simp] theorem State.startTransaction_window (s : State) : s.startTransaction.window = s.window := rfl
@[simp] theorem State.startTransaction_index (s : State) : s.startTransaction.index = s.index := rfl
@[simp] theorem State.startTransaction_memo (s : State) : s.startTransaction.memo = s.memo := rfl
@[simp] theorem State.startTransaction_hold (s : State) : s.startTransaction.hold = s.hold := rfl
@[simp] theorem State.startTransaction_count (s : State) : s.startTransaction.count = s.count := rfl
@[simp] theorem State.startTransaction_trace (s : State) : s.startTransaction.trace = s.trace ++ [.busBegin s.params.tables.data.spiClockHz s.params.tables.data.spiMode, .csAssert] := rfl
@[simp] theorem State.startTransaction_params (s : State) : s.startTransaction.params = s.params := rfl

/-! `endTransaction` -/

@[simp] theorem State.endTransaction_requests (s : State) : s.endTransaction.requests = s.requests := rfl
@[simp] theorem State.endTransaction_bytePort (s : State) : s.endTransaction.bytePort = s.bytePort := rfl
@[simp] theorem State.endTransaction_resp (s : State) : s.endTransaction.resp = s.resp := rfl
@[simp] theorem State.endTransaction_framer (s : State) : s.endTransaction.framer = ⟨false, .deasserted, s.framer.dc⟩ := rfl
@[simp] theorem State.endTransaction_display (s : State) : s.endTransaction.display = s.display := rfl
@[simp] theorem State.endTransaction_initialized (s : State) : s.endTransaction.initialized = s.initialized := rfl
@[simp] theorem State.endTransaction_window (s : State) : s.endTransaction.window = s.window := rfl
@[simp] theorem State.endTransaction_index (s : State) : s.endTransaction.index = s.index := rfl
@[simp] theorem State.endTransaction_memo (s : State) : s.endTransaction.memo = s.memo := rfl
@[simp] theorem State.endTransaction_hold (s : State) : s.endTransaction.hold = s.hold := rfl
@[simp] theorem State.endTransaction_count (s : State) : s.endTransaction.count = s.count := rfl
@[simp] theorem State.endTransaction_trace (s : State) : s.endTransaction.trace = s.trace ++ [.csDeassert, .busEnd] := rfl
@[simp] theorem State.endTransaction_params (s : State) : s.endTransaction.params = s.params := rfl

/-! `writeCommand` -/

@[simp] theorem State.writeCommand_requests (s : State) (code : Byte) : (s.writeCommand code).requests = s.requests := rfl
@[simp] theorem State.writeCommand_bytePort (s : State) (code : Byte) : (s.writeCommand code).bytePort = s.bytePort := rfl
@[simp] theorem State.writeCommand_resp (s : State) (code : Byte) : (s.writeCommand code).resp = s.resp := rfl
@[simp] theorem State.writeCommand_framer (s : State) (code : Byte) : (s.writeCommand code).framer = ⟨s.framer.txn, s.framer.cs, .data⟩ := rfl
@[simp] theorem State.writeCommand_display (s : State) (code : Byte) : (s.writeCommand code).display = s.display := rfl
@[simp] theorem State.writeCommand_initialized (s : State) (code : Byte) : (s.writeCommand code).initialized = s.initialized := rfl
@[simp] theorem State.writeCommand_window (s : State) (code : Byte) : (s.writeCommand code).window = s.window := rfl
@[simp] theorem State.writeCommand_index (s : State) (code : Byte) : (s.writeCommand code).index = s.index := rfl
@[simp] theorem State.writeCommand_memo (s : State) (code : Byte) : (s.writeCommand code).memo = s.memo := rfl
@[simp] theorem State.writeCommand_hold (s : State) (code : Byte) : (s.writeCommand code).hold = s.hold := rfl
@[simp] theorem State.writeCommand_count (s : State) (code : Byte) : (s.writeCommand code).count = s.count := rfl
@[simp] theorem State.writeCommand_trace (s : State) (code : Byte) : (s.writeCommand code).trace = s.trace ++ [.dcCmd, .tx8 code, .dcData] := rfl
@[simp] theorem State.writeCommand_params (s : State) (code : Byte) : (s.writeCommand code).params = s.params := rfl

/-! `sendCommand` -/

@[simp] theorem State.sendCommand_requests (s : State) (code : Byte) (payload : List Byte) : (s.sendCommand code payload).requests = s.requests := rfl
@[simp] theorem State.sendCommand_bytePort (s : State) (code : Byte) (payload : List Byte) : (s.sendCommand code payload).bytePort = s.bytePort := rfl
@[simp] theorem State.sendCommand_resp (s : State) (code : Byte) (payload : List Byte) : (s.sendCommand code payload).resp = s.resp := rfl
@[simp] theorem State.sendCommand_framer (s : State) (code : Byte) (payload : List Byte) : (s.sendCommand code payload).framer = ⟨false, .deasserted, .data⟩ := rfl
@[simp] theorem State.sendCommand_display (s : State) (code : Byte) (payload : List Byte) : (s.sendCommand code payload).display = s.display := rfl
@[simp] theorem State.sendCommand_initialized (s : State) (code : Byte) (payload : List Byte) : (s.sendCommand code payload).initialized = s.initialized := rfl
@[simp] theorem State.sendCommand_window (s : State) (code : Byte) (payload : List Byte) : (s.sendCommand code payload).window = s.window := rfl
@[simp] theorem State.sendCommand_index (s : State) (code : Byte) (payload : List Byte) : (s.sendCommand code payload).index = s.index := rfl
@[simp] theorem State.sendCommand_memo (s : State) (code : Byte) (payload : List Byte) : (s.sendCommand code payload).memo = s.memo := rfl
@[simp] theorem State.sendCommand_hold (s : State) (code : Byte) (payload : List Byte) : (s.sendCommand code payload).hold = s.hold := rfl
@[simp] theorem State.sendCommand_count (s : State) (code : Byte) (payload : List Byte) : (s.sendCommand code payload).count = s.count := rfl
@[simp] theorem State.sendCommand_params (s : State) (code : Byte) (payload : List Byte) : (s.sendCommand code payload).params = s.params := rfl
@[simp] theorem State.sendCommand_trace (s : State) (code : Byte) (payload : List Byte) :
    (s.sendCommand code payload).trace = s.trace
      ++ ([.busBegin s.params.tables.data.spiClockHz s.params.tables.data.spiMode, .csAssert, .dcCmd, .tx8 code, .dcData]
        ++ payload.map .tx8 ++ [.csDeassert, .busEnd]) := by
  simp [State.sendCommand]

/-! `sendPair` -/

@[simp] theorem State.sendPair_requests (s : State) (code : Byte) (first last : Half) : (s.sendPair code first last).requests = s.requests := rfl
@[simp] theorem State.sendPair_bytePort (s : State) (code : Byte) (first last : Half) : (s.sendPair code first last).bytePort = s.bytePort := rfl
@[simp] theorem State.sendPair_resp (s : State) (code : Byte) (first last : Half) : (s.sendPair code first last).resp = s.resp := rfl
@[simp] theorem State.sendPair_framer (s : State) (code : Byte) (first last : Half) : (s.sendPair code first last).framer = ⟨s.framer.txn, s.framer.cs, .data⟩ := rfl
@[simp] theorem State.sendPair_display (s : State) (code : Byte) (first last : Half) : (s.sendPair code first last).display = s.display := rfl
@[simp] theorem State.sendPair_initialized (s : State) (code : Byte) (first last : Half) : (s.sendPair code first last).initialized = s.initialized := rfl
@[simp] theorem State.sendPair_window (s : State) (code : Byte) (first last : Half) : (s.sendPair code first last).window = s.window := rfl
@[simp] theorem State.sendPair_index (s : State) (code : Byte) (first last : Half) : (s.sendPair code first last).index = s.index := rfl
@[simp] theorem State.sendPair_memo (s : State) (code : Byte) (first last : Half) : (s.sendPair code first last).memo = s.memo := rfl
@[simp] theorem State.sendPair_hold (s : State) (code : Byte) (first last : Half) : (s.sendPair code first last).hold = s.hold := rfl
@[simp] theorem State.sendPair_count (s : State) (code : Byte) (first last : Half) : (s.sendPair code first last).count = s.count := rfl
@[simp] theorem State.sendPair_params (s : State) (code : Byte) (first last : Half) : (s.sendPair code first last).params = s.params := rfl
@[simp] theorem State.sendPair_trace (s : State) (code : Byte) (first last : Half) :
    (s.sendPair code first last).trace = s.trace ++ [.dcCmd, .tx8 code, .dcData, .tx16 first, .tx16 last] := by
  simp [State.sendPair]

/-! `putPixel` -/

@[simp] theorem State.putPixel_requests (s : State) (c : Color16) : (s.putPixel c).requests = s.requests := rfl
@[simp] theorem State.putPixel_bytePort (s : State) (c : Color16) : (s.putPixel c).bytePort = s.bytePort := rfl
@[simp] theorem State.putPixel_resp (s : State) (c : Color16) : (s.putPixel c).resp = s.resp := rfl
@[simp] theorem State.putPixel_framer (s : State) (c : Color16) : (s.putPixel c).framer = s.framer := rfl
@[simp] theorem State.putPixel_display (s : State) (c : Color16) : (s.putPixel c).display = s.display := rfl
@[simp] theorem State.putPixel_initialized (s : State) (c : Color16) : (s.putPixel c).initialized = s.initialized := rfl
@[simp] theorem State.putPixel_window (s : State) (c : Color16) : (s.putPixel c).window = s.window := rfl
@[simp] theorem State.putPixel_index (s : State) (c : Color16) : (s.putPixel c).index = s.index := rfl
@[simp] theorem State.putPixel_memo (s : State) (c : Color16) : (s.putPixel c).memo = s.memo := rfl
@[simp] theorem State.putPixel_hold (s : State) (c : Color16) : (s.putPixel c).hold = s.hold := rfl
@[simp] theorem State.putPixel_count (s : State) (c : Color16) : (s.putPixel c).count = s.count := rfl
@[simp] theorem State.putPixel_trace (s : State) (c : Color16) : (s.putPixel c).trace = s.trace ++ [.tx16 c] := rfl
@[simp] theorem State.putPixel_params (s : State) (c : Color16) : (s.putPixel c).params = s.params := rfl

/-! `setSptr` -/

@[simp] theorem State.setSptr_requests (s : State) (p : Nat) : (s.setSptr p).requests = s.requests := rfl
@[simp] theorem State.setSptr_bytePort (s : State) (p : Nat) : (s.setSptr p).bytePort = s.bytePort := rfl
@[simp] theorem State.setSptr_resp (s : State) (p : Nat) : (s.setSptr p).resp = s.resp := rfl
@[simp] theorem State.setSptr_framer (s : State) (p : Nat) : (s.setSptr p).framer = s.framer := rfl
@[simp] theorem State.setSptr_display (s : State) (p : Nat) : (s.setSptr p).display = s.display := rfl
@[simp] theorem State.setSptr_initialized (s : State) (p : Nat) : (s.setSptr p).initialized = s.initialized := rfl
@[simp] theorem State.setSptr_window (s : State) (p : Nat) : (s.setSptr p).window = s.window := rfl
@[simp] theorem State.setSptr_index (s : State) (p : Nat) : (s.setSptr p).index = s.index := rfl
@[simp] theorem State.setSptr_memo (s : State) (p : Nat) : (s.setSptr p).memo = s.memo := rfl
@[simp] theorem State.setSptr_hold (s : State) (p : Nat) : (s.setSptr p).hold = s.hold := rfl
@[simp] theorem State.setSptr_count (s : State) (p : Nat) : (s.setSptr p).count = { s.count with sptr := p } := rfl
@[simp] theorem State.setSptr_trace (s : State) (p : Nat) : (s.setSptr p).trace = s.trace := rfl
@[simp] theorem State.setSptr_params (s : State) (p : Nat) : (s.setSptr p).params = s.params := rfl

/-! `markInitialized` -/

@[simp] theorem State.markInitialized_requests (s : State) : s.markInitialized.requests = s.requests := rfl
@[simp] theorem State.markInitialized_bytePort (s : State) : s.markInitialized.bytePort = s.bytePort := rfl
@[simp] theorem State.markInitialized_resp (s : State) : s.markInitialized.resp = s.resp := rfl
@[simp] theorem State.markInitialized_framer (s : State) : s.markInitialized.framer = s.framer := rfl
@[simp] theorem State.markInitialized_display (s : State) : s.markInitialized.display = s.display := rfl
@[simp] theorem State.markInitialized_initialized (s : State) : s.markInitialized.initialized = true := rfl
@[simp] theorem State.markInitialized_window (s : State) : s.markInitialized.window = s.window := rfl
@[simp] theorem State.markInitialized_index (s : State) : s.markInitialized.index = s.index := rfl
@[simp] theorem State.markInitialized_memo (s : State) : s.markInitialized.memo = s.memo := rfl
@[simp] theorem State.markInitialized_hold (s : State) : s.markInitialized.hold = s.hold := rfl
@[simp] theorem State.markInitialized_count (s : State) : s.markInitialized.count = s.count := rfl
@[simp] theorem State.markInitialized_trace (s : State) : s.markInitialized.trace = s.trace := rfl
@[simp] theorem State.markInitialized_params (s : State) : s.markInitialized.params = s.params := rfl

/-! `rotate` -/

@[simp] theorem State.rotate_requests (s : State) (r : BitVec 2) : (s.rotate r).requests = s.requests := rfl
@[simp] theorem State.rotate_bytePort (s : State) (r : BitVec 2) : (s.rotate r).bytePort = s.bytePort := rfl
@[simp] theorem State.rotate_resp (s : State) (r : BitVec 2) : (s.rotate r).resp = s.resp := rfl
@[simp] theorem State.rotate_framer (s : State) (r : BitVec 2) : (s.rotate r).framer = s.framer := rfl
@[simp] theorem State.rotate_display (s : State) (r : BitVec 2) : (s.rotate r).display = displayFor r := rfl
@[simp] theorem State.rotate_initialized (s : State) (r : BitVec 2) : (s.rotate r).initialized = s.initialized := rfl
@[simp] theorem State.rotate_window (s : State) (r : BitVec 2) : (s.rotate r).window = s.window := rfl
@[simp] theorem State.rotate_index (s : State) (r : BitVec 2) : (s.rotate r).index = s.index := rfl
@[simp] theorem State.rotate_memo (s : State) (r : BitVec 2) : (s.rotate r).memo = s.memo := rfl
@[simp] theorem State.rotate_hold (s : State) (r : BitVec 2) : (s.rotate r).hold = s.hold := rfl
@[simp] theorem State.rotate_count (s : State) (r : BitVec 2) : (s.rotate r).count = s.count := rfl
@[simp] theorem State.rotate_trace (s : State) (r : BitVec 2) : (s.rotate r).trace = s.trace := rfl
@[simp] theorem State.rotate_params (s : State) (r : BitVec 2) : (s.rotate r).params = s.params := rfl

/-! `streamFill` -/

@[simp] theorem State.streamFill_requests (s : State) (c16 : Color16) (n : Word) : (s.streamFill c16 n).requests = s.requests := rfl
@[simp] theorem State.streamFill_bytePort (s : State) (c16 : Color16) (n : Word) : (s.streamFill c16 n).bytePort = s.bytePort := rfl
@[simp] theorem State.streamFill_resp (s : State) (c16 : Color16) (n : Word) : (s.streamFill c16 n).resp = s.resp := rfl
@[simp] theorem State.streamFill_framer (s : State) (c16 : Color16) (n : Word) : (s.streamFill c16 n).framer = s.framer := rfl
@[simp] theorem State.streamFill_display (s : State) (c16 : Color16) (n : Word) : (s.streamFill c16 n).display = s.display := rfl
@[simp] theorem State.streamFill_initialized (s : State) (c16 : Color16) (n : Word) : (s.streamFill c16 n).initialized = s.initialized := rfl
@[simp] theorem State.streamFill_window (s : State) (c16 : Color16) (n : Word) : (s.streamFill c16 n).window = s.window := rfl
@[simp] theorem State.streamFill_index (s : State) (c16 : Color16) (n : Word) : (s.streamFill c16 n).index = s.index := rfl
@[simp] theorem State.streamFill_memo (s : State) (c16 : Color16) (n : Word) : (s.streamFill c16 n).memo = s.memo := rfl
@[simp] theorem State.streamFill_hold (s : State) (c16 : Color16) (n : Word) : (s.streamFill c16 n).hold = { s.hold with fill := c16 } := rfl
@[simp] theorem State.streamFill_count (s : State) (c16 : Color16) (n : Word) : (s.streamFill c16 n).count = { s.count with pair := n >>> 1 } := rfl
@[simp] theorem State.streamFill_trace (s : State) (c16 : Color16) (n : Word) : (s.streamFill c16 n).trace = s.trace ++ fillEvents (packBurstWord c16 c16) (n.toNat / 2) := rfl
@[simp] theorem State.streamFill_params (s : State) (c16 : Color16) (n : Word) : (s.streamFill c16 n).params = s.params := rfl

end Sys2Proof.Machine
end

