-- ==== Sys2Proof/Laws/Memory.lean ====
section
/-! SUPPORT. The FontIndex's list of cells: a read after a write, and every operation keeps the canonical form. -/

namespace Sys2Proof.Machine

variable {d : Nat → Byte} {m : Memory} {lo a b : Nat} {v w : Byte}

@[simp] theorem Memory.find?_nil : Memory.find? [] a = none := rfl

@[simp] theorem Memory.find?_cons (rest : Memory) :
    Memory.find? ((b, v) :: rest) a = if a = b then some v else Memory.find? rest a := rfl

@[simp] theorem Memory.wf_nil : Memory.wf d [] = true := rfl

theorem Memory.wfFrom_cons (rest : Memory) : Memory.wfFrom d lo ((a, v) :: rest) = true ↔
    lo ≤ a ∧ a < indexSize ∧ v ≠ d a ∧ Memory.wfFrom d (a + 1) rest = true := by
  simp [Memory.wfFrom, and_assoc]

/-- A list that starts at `lo` also starts at any lower address. -/
theorem Memory.wfFrom_mono (h : Memory.wfFrom d lo m = true) (hb : b ≤ lo) : Memory.wfFrom d b m = true := by
  cases m with
  | nil => rfl
  | cons e rest =>
    obtain ⟨a, v⟩ := e
    rw [wfFrom_cons] at h ⊢
    exact ⟨by omega, h.2⟩

/-- No address below the start is listed. -/
theorem Memory.find?_eq_none_of_lt (h : Memory.wfFrom d lo m = true) (ha : a < lo) : m.find? a = none := by
  induction m generalizing lo with
  | nil => rfl
  | cons e rest ih =>
    obtain ⟨b, v⟩ := e
    rw [wfFrom_cons] at h
    rw [find?_cons, if_neg (by omega)]
    exact ih h.2.2.2 (by omega)

/-- A write keeps the canonical form. -/
theorem Memory.wfFrom_write (h : Memory.wfFrom d lo m = true) (hlo : lo ≤ a) (ha : a < indexSize) :
    Memory.wfFrom d lo (Memory.write d m a v) = true := by
  induction m generalizing lo with
  | nil =>
    simp only [write]
    split
    · rfl
    · rw [wfFrom_cons]
      exact ⟨hlo, ha, ‹_›, rfl⟩
  | cons e rest ih =>
    obtain ⟨b, w⟩ := e
    have h' := h
    rw [wfFrom_cons] at h
    obtain ⟨h1, h2, h3, h4⟩ := h
    simp only [write]
    split
    · split
      · exact h'
      · rw [wfFrom_cons, wfFrom_cons]
        exact ⟨hlo, ha, ‹_›, by omega, h2, h3, h4⟩
    · split
      · subst a
        split
        · exact wfFrom_mono h4 (by omega)
        · rw [wfFrom_cons]
          exact ⟨hlo, ha, ‹_›, h4⟩
      · rw [wfFrom_cons]
        exact ⟨h1, h2, h3, ih h4 (by omega)⟩

theorem Memory.wf_write (h : m.wf d = true) (ha : a < indexSize) : Memory.wf d (Memory.write d m a v) = true :=
  wfFrom_write h (Nat.zero_le a) ha

/-- The entry of the written address afterwards: none where the value is what an unlisted address reads as. -/
theorem Memory.find?_write_same (h : Memory.wfFrom d lo m = true) :
    (Memory.write d m a v).find? a = if v = d a then none else some v := by
  induction m generalizing lo with
  | nil => simp only [write]; split <;> simp
  | cons e rest ih =>
    obtain ⟨b, w⟩ := e
    rw [wfFrom_cons] at h
    obtain ⟨h1, h2, h3, h4⟩ := h
    simp only [write]
    split
    · split
      · rw [find?_cons, if_neg (by omega)]
        exact find?_eq_none_of_lt h4 (by omega)
      · simp
    · split
      · subst a
        split
        · exact find?_eq_none_of_lt h4 (by omega)
        · simp
      · rw [find?_cons, if_neg ‹_›]
        exact ih h4

/-- Every other entry stands. -/
theorem Memory.find?_write_other (hab : b ≠ a) : (Memory.write d m a v).find? b = m.find? b := by
  induction m with
  | nil => simp only [write]; split <;> simp [hab]
  | cons e rest ih =>
    obtain ⟨c, w⟩ := e
    simp only [write]
    split
    · split <;> simp [hab]
    · split
      · subst a
        split <;> simp [hab]
      · simp only [find?_cons, ih]

/-- A read after a write to the same address gives the value written. -/
theorem Memory.read_write_same (h : m.wf d = true) : Memory.read d (Memory.write d m a v) a = v := by
  rw [read, find?_write_same h]
  split <;> simp_all

/-- A write leaves every other address alone. -/
theorem Memory.read_write_other (hab : b ≠ a) : Memory.read d (Memory.write d m a v) b = Memory.read d m b := by
  rw [read, read, find?_write_other hab]

/-- A canonical list in which every element reads as an unlisted one lists nothing. -/
theorem Memory.eq_nil_of_read (h : m.wf d = true) (hr : ∀ a < indexSize, Memory.read d m a = d a) : m = [] := by
  cases m with
  | nil => rfl
  | cons e rest =>
    obtain ⟨a, v⟩ := e
    have h' : Memory.wfFrom d 0 ((a, v) :: rest) = true := h
    rw [wfFrom_cons] at h'
    have := hr a h'.2.1
    simp only [read, find?_cons, if_pos, Option.getD_some] at this
    exact absurd this h'.2.2.1

/-! ### On the state -/

variable {s : State}

/-- Every store to the FontIndex keeps its canonical form. -/
theorem State.indexWrite_wf (key v : Byte) (h : Memory.wf (indexDefault s.params.tables) s.index = true) :
    Memory.wf (indexDefault (s.indexWrite key v).params.tables) (s.indexWrite key v).index = true :=
  Memory.wf_write h (by simpa [indexSize] using key.isLt)

theorem State.indexRead_indexWrite (key v c : Byte) (h : Memory.wf (indexDefault s.params.tables) s.index = true) :
    (s.indexWrite key v).indexRead c = if c = key then v else s.indexRead c := by
  unfold State.indexRead
  split
  · subst c
    exact Memory.read_write_same h
  · exact Memory.read_write_other fun hc => ‹¬c = key› (BitVec.eq_of_toNat_eq hc)

theorem State.zeroIndex_wf (h : Memory.wf (indexDefault s.params.tables) s.index = true) :
    Memory.wf (indexDefault s.zeroIndex.params.tables) s.zeroIndex.index = true := by
  unfold State.zeroIndex
  generalize List.range indexSize = ks
  induction ks generalizing s with
  | nil => exact h
  | cons k rest ih => exact ih (State.indexWrite_wf _ _ h)

theorem State.scanRecords_wf (is : List (Fin 95)) (h : Memory.wf (indexDefault s.params.tables) s.index = true) :
    Memory.wf (indexDefault (State.scanRecords is s).params.tables) (State.scanRecords is s).index = true := by
  induction is generalizing s with
  | nil => exact h
  | cons i rest ih =>
    simp only [State.scanRecords]
    split
    · exact State.indexWrite_wf _ _ h
    · exact ih (State.indexWrite_wf _ _ h)

/-- `BUILD_INDEX` keeps the canonical form. -/
theorem State.buildIndex_wf (h : Memory.wf (indexDefault s.params.tables) s.index = true) :
    Memory.wf (indexDefault s.buildIndex.params.tables) s.buildIndex.index = true :=
  State.scanRecords_wf _ (State.zeroIndex_wf h)

/-- The memory after reset has the canonical form. -/
theorem State.reset_index_wf : Memory.wf (indexDefault State.reset.params.tables) State.reset.index = true := rfl

end Sys2Proof.Machine
end

