-- ==== Sys2Proof/Laws/Ops.lean ====
section
/-! SUPPORT. One lemma for each shared operation that says everything it can do: when a head test lets its operation go on,
and which fields a step of the block may write. -/

namespace Sys2Proof.Machine

variable {s t : State} {k : Outcome}

/-! ### Head tests -/

@[simp] theorem State.inBracket_open (h : s.framer.txn = true) : s.inBracket k = k := by simp [State.inBracket, h]

@[simp] theorem State.inBracket_closed (h : s.framer.txn = false) : s.inBracket k = .refused .noTransaction := by
  simp [State.inBracket, h]

@[simp] theorem State.outOfBracket_closed (h : s.framer.txn = false) : s.outOfBracket k = k := by
  simp [State.outOfBracket, h]

@[simp] theorem State.outOfBracket_open (h : s.framer.txn = true) : s.outOfBracket k = .refused .nestedTransaction := by
  simp [State.outOfBracket, h]

theorem State.inDataMode_ready (h : s.framer.txn = true) (hd : s.framer.dc = .data) : s.inDataMode k = k := by
  simp [State.inDataMode, h, hd]

theorem State.inDataMode_unready (h : s.framer.txn = true) (hd : s.framer.dc ≠ .data) :
    s.inDataMode k = .refused .selectorUnknown := by
  simp [State.inDataMode, h, hd]

theorem State.inBracket_next : s.inBracket k = .next t ↔ s.framer.txn = true ∧ k = .next t := by
  unfold State.inBracket; split <;> simp_all

theorem State.outOfBracket_next : s.outOfBracket k = .next t ↔ s.framer.txn = false ∧ k = .next t := by
  unfold State.outOfBracket; split <;> simp_all

theorem State.inDataMode_next :
    s.inDataMode k = .next t ↔ s.framer.txn = true ∧ s.framer.dc = .data ∧ k = .next t := by
  unfold State.inDataMode
  rw [State.inBracket_next]
  split <;> simp_all

theorem evenCount_next {n : Word} : evenCount n k = .next t ↔ n.getLsbD 0 = false ∧ k = .next t := by
  unfold evenCount; split <;> simp_all

/-! ### Frames -/

theorem State.writeCommand_eq (s : State) (code : Byte) : s.writeCommand code = { s with
    trace := s.trace ++ [.dcCmd, .tx8 code, .dcData]
    framer := ⟨s.framer.txn, s.framer.cs, .data⟩ } := rfl

/-- A stand-alone frame appends its events and leaves no bracket open. -/
theorem State.sendCommand_eq (s : State) (code : Byte) (payload : List Byte) : s.sendCommand code payload = { s with
    trace := s.trace ++ ([.busBegin s.params.tables.data.spiClockHz s.params.tables.data.spiMode, .csAssert, .dcCmd,
      .tx8 code, .dcData] ++ payload.map .tx8 ++ [.csDeassert, .busEnd])
    framer := ⟨false, .deasserted, .data⟩ } := by
  simp [State.sendCommand, State.startTransaction, State.writeCommand, State.endTransaction, State.emits]

/-! ### Window programming -/

/-- Programming the columns either finds them cached and does nothing, or sends one coordinate frame and caches them. -/
theorem State.programColumns_cases (s : State) (x1 x2 : Half) :
    (s.window.hasColumns x1 x2 = true ∧ s.programColumns x1 x2 = s) ∨
    (s.window.hasColumns x1 x2 = false ∧ s.programColumns x1 x2 =
      { s.sendPair s.params.opcodes.bytes.caset x1 x2 with window := { s.window with x1 := x1, x2 := x2, xv := true } }) := by
  unfold State.programColumns; split <;> simp_all

theorem State.programRows_cases (s : State) (y1 y2 : Half) :
    (s.window.hasRows y1 y2 = true ∧ s.programRows y1 y2 = s) ∨
    (s.window.hasRows y1 y2 = false ∧ s.programRows y1 y2 =
      { s.sendPair s.params.opcodes.bytes.paset y1 y2 with window := { s.window with y1 := y1, y2 := y2, yv := true } }) := by
  unfold State.programRows; split <;> simp_all

theorem AddressWindow.hasColumns_iff (w : AddressWindow) (x1 x2 : Half) :
    w.hasColumns x1 x2 = true ↔ w.xv = true ∧ w.x1 = x1 ∧ w.x2 = x2 := by
  simp [AddressWindow.hasColumns, and_assoc]

theorem AddressWindow.hasRows_iff (w : AddressWindow) (y1 y2 : Half) :
    w.hasRows y1 y2 = true ↔ w.yv = true ∧ w.y1 = y1 ∧ w.y2 = y2 := by
  simp [AddressWindow.hasRows, and_assoc]

/-- Window programming writes the trace, the selector (which ends at data) and the cache, nothing else. -/
theorem State.setWindow_frame (s : State) (x1 x2 y1 y2 : Half) :
    s.setWindow x1 x2 y1 y2 = { s with
      trace := (s.setWindow x1 x2 y1 y2).trace
      framer := ⟨s.framer.txn, s.framer.cs, .data⟩
      window := (s.setWindow x1 x2 y1 y2).window } := by
  unfold State.setWindow
  rcases s.programColumns_cases x1 x2 with ⟨-, hc⟩ | ⟨-, hc⟩ <;> rw [hc] <;>
    [rcases s.programRows_cases y1 y2 with ⟨-, hr⟩ | ⟨-, hr⟩;
     rcases State.programRows_cases _ y1 y2 with ⟨-, hr⟩ | ⟨-, hr⟩] <;> rw [hr] <;> rfl

/-! ### Glyph streaming -/

/-- `t` is `s` but for the trace, the holding registers, the memo and the counters. -/
def OnlyStreamed (s t : State) : Prop :=
  t = { s with trace := t.trace, hold := t.hold, memo := t.memo, count := t.count }

theorem OnlyStreamed.refl (s : State) : OnlyStreamed s s := rfl

theorem OnlyStreamed.trans {u : State} (h : OnlyStreamed s t) (h' : OnlyStreamed t u) : OnlyStreamed s u := by
  unfold OnlyStreamed at *
  rw [h', h]

theorem OnlyStreamed.foldl {α : Type} (f : State → α → State) (hf : ∀ s a, OnlyStreamed s (f s a)) (as : List α)
    (s : State) : OnlyStreamed s (as.foldl f s) := by
  induction as generalizing s with
  | nil => exact .refl s
  | cons a rest ih => exact (hf s a).trans (ih (f s a))

theorem State.dataPixel_frame (s : State) (j : Fin 4) : OnlyStreamed s (s.dataPixel j) := by
  unfold State.dataPixel OnlyStreamed
  dsimp only
  split <;> rfl

theorem State.borderPixel_frame (s : State) (col : Fin 5) : OnlyStreamed s (s.borderPixel col) := rfl

theorem State.dataRow_frame (s : State) (word : Half) : OnlyStreamed s (s.dataRow word) :=
  (show OnlyStreamed s { s with hold := { s.hold with rowWord := word }, memo := { s.memo with valid := false } } from rfl).trans
    ((OnlyStreamed.foldl _ State.dataPixel_frame _ _).trans (State.borderPixel_frame _ 4))

theorem State.borderRow_frame (s : State) (row : Fin 10) : OnlyStreamed s (s.borderRow row) :=
  (show OnlyStreamed s { s with count := { s.count with row := row } } from rfl).trans
    (OnlyStreamed.foldl _ State.borderPixel_frame _ _)

theorem State.glyphDataRow_frame (g : Fin 95) (s : State) (i : Fin 9) : OnlyStreamed s (s.glyphDataRow g i) :=
  (show OnlyStreamed s { s with count := { s.count with row := i.castSucc } } from rfl).trans (State.dataRow_frame _ _)

/-- Streaming a glyph writes the trace, the holding registers, the memo and the counters, nothing else. -/
theorem State.streamGlyph_frame (s : State) (g : Fin 95) (char : Byte) (fore back : Color16) :
    OnlyStreamed s (s.streamGlyph g char fore back) := by
  exact (show OnlyStreamed s (s.latchGlyph g char fore back) from rfl).trans ((State.borderRow_frame _ 0).trans
    ((OnlyStreamed.foldl _ (State.glyphDataRow_frame g) _ _).trans (State.borderRow_frame _ 9)))

/-- Streaming a fill appends its events and writes `FILL` and `PAIR`, nothing else. -/
theorem State.streamFill_eq (s : State) (c16 : Color16) (n : Word) :
    s.streamFill c16 n = { s with
      trace := s.trace ++ fillEvents (packBurstWord c16 c16) (n.toNat / 2)
      hold := { s.hold with fill := c16 }
      count := { s.count with pair := n >>> 1 } } := rfl

/-! ### The init script -/

/-- `t` is `s` but for the trace, the line registers and the counters. -/
def OnlyReplayed (s t : State) : Prop := t = { s with trace := t.trace, framer := t.framer, count := t.count }

theorem OnlyReplayed.refl (s : State) : OnlyReplayed s s := rfl

theorem OnlyReplayed.trans {u : State} (h : OnlyReplayed s t) (h' : OnlyReplayed t u) : OnlyReplayed s u := by
  unfold OnlyReplayed at *
  rw [h', h]

theorem State.setSptr_frame (s : State) (p : Nat) : OnlyReplayed s (s.setSptr p) := rfl
theorem State.emits_frame (s : State) (es : List Event) : OnlyReplayed s (s.emits es) := rfl
theorem State.sendCommand_frame (s : State) (code : Byte) (payload : List Byte) :
    OnlyReplayed s (s.sendCommand code payload) := rfl

theorem State.replayRecord_frame (s : State) (op lengthByte : Byte) : OnlyReplayed s (s.replayRecord op lengthByte) :=
  ((State.sendCommand_frame s _ _).trans (State.emits_frame _ _)).trans (State.setSptr_frame _ _)

/-- The split of a script's length byte, as arithmetic (R82). -/
theorem payloadLength_eq (lengthByte : Byte) : payloadLength lengthByte = lengthByte.toNat % 128 := by
  simp [payloadLength]

theorem delayFlag_eq (lengthByte : Byte) : delayFlag lengthByte = decide (128 ≤ lengthByte.toNat) := by
  revert lengthByte; decide

/-- One record of the script: its frame, its settle delay, and the pointer past it. -/
theorem State.replayRecord_eq (s : State) (op lengthByte : Byte) : s.replayRecord op lengthByte = { s with
    trace := s.trace ++ ([.busBegin s.params.tables.data.spiClockHz s.params.tables.data.spiMode, .csAssert, .dcCmd,
        .tx8 op, .dcData] ++ (scriptPayload s.params.tables s.count.sptr (payloadLength lengthByte)).map .tx8
        ++ [.csDeassert, .busEnd]) ++ settle s.params op (delayFlag lengthByte)
    framer := ⟨false, .deasserted, .data⟩
    count := { s.count with sptr := s.count.sptr + 2 + payloadLength lengthByte } } := by
  rw [State.replayRecord, State.sendCommand_eq]
  rfl

/-- Replaying the script writes the trace, the line registers and the counters, nothing else. -/
theorem State.replayScript_frame (left : Nat) (s : State) : OnlyReplayed s (State.replayScript left s) := by
  induction left generalizing s with
  | zero => exact .refl s
  | succ left ih =>
    simp only [State.replayScript]
    split
    · exact .refl s
    · split
      · exact .refl s
      · split
        · exact .refl s
        · exact (State.replayRecord_frame s _ _).trans (ih _)

/-- `INIT_RUN` writes no state but the trace, the line registers and the counters. -/
theorem State.initRun_frame (s : State) : OnlyReplayed s s.initRun :=
  (State.setSptr_frame s 0).trans (State.replayScript_frame _ _)

/-! ### The FontIndex -/

/-- `t` is `s` but for the FontIndex and the counters. -/
def OnlyIndexed (s t : State) : Prop := t = { s with index := t.index, count := t.count }

theorem OnlyIndexed.refl (s : State) : OnlyIndexed s s := rfl

theorem OnlyIndexed.trans {u : State} (h : OnlyIndexed s t) (h' : OnlyIndexed t u) : OnlyIndexed s u := by
  unfold OnlyIndexed at *
  rw [h', h]

theorem State.indexWrite_frame (s : State) (key v : Byte) : OnlyIndexed s (s.indexWrite key v) := rfl

theorem State.zeroIndex_frame (s : State) : OnlyIndexed s s.zeroIndex := by
  unfold State.zeroIndex
  generalize List.range indexSize = ks
  induction ks generalizing s with
  | nil => exact .refl s
  | cons a rest ih => exact (State.indexWrite_frame s _ _).trans (ih _)

theorem State.scanRecords_frame (is : List (Fin 95)) (s : State) : OnlyIndexed s (State.scanRecords is s) := by
  induction is generalizing s with
  | nil => exact .refl s
  | cons i rest ih =>
    have h : OnlyIndexed s { s.indexWrite (lowByte (fontCode s.params.tables i)) (recordByte i) with
        count := { s.count with scan := i } } := rfl
    simp only [State.scanRecords]
    split
    · exact h
    · exact h.trans (ih _)

/-- `BUILD_INDEX` writes the FontIndex and the counters, nothing else. -/
theorem State.buildIndex_frame (s : State) : OnlyIndexed s s.buildIndex :=
  (State.zeroIndex_frame s).trans (State.scanRecords_frame _ _)

/-! ### Taking a request -/

/-- Everything taking a request can do. -/
theorem State.fetch_cases (s : State) :
    (s.requests = [] ∧ s.fetch = .idle) ∨
    ∃ r later, s.requests = r :: later ∧
      ((∃ i bytes, decode s.params.opcodes r s.bytePort = .ok i bytes ∧
          s.fetch = .run i { s with requests := later, bytePort := bytes }) ∨
       (decode s.params.opcodes r s.bytePort = .awaitPayload ∧ s.fetch = .idle) ∨
       ∃ why, s.fetch = .bad why) := by
  unfold State.fetch
  split
  · exact .inl ⟨‹_›, rfl⟩
  · rename_i r later h
    refine .inr ⟨r, later, h, ?_⟩
    split
    · exact .inl ⟨_, _, ‹_›, rfl⟩
    · exact .inr (.inl ⟨‹_›, rfl⟩)
    all_goals exact .inr (.inr ⟨_, rfl⟩)

/-- A step that answers a next state waited, or ran the operation it decoded. -/
theorem step_next (h : step s = .next t) :
    t = s ∨ ∃ r later i bytes, s.requests = r :: later ∧ decode s.params.opcodes r s.bytePort = .ok i bytes ∧
      exec i { s with requests := later, bytePort := bytes } = .next t := by
  unfold step at h
  rcases s.fetch_cases with ⟨-, hf⟩ | ⟨r, later, hr, ⟨i, bytes, hd, hf⟩ | ⟨-, hf⟩ | ⟨why, hf⟩⟩ <;> rw [hf] at h
  · simp only [Host.Outcome.next.injEq] at h; exact .inl h.symm
  · exact .inr ⟨r, later, i, bytes, hr, hd, h⟩
  · simp only [Host.Outcome.next.injEq] at h; exact .inl h.symm
  · cases h

end Sys2Proof.Machine
end

