-- ==== Sys2Proof/Laws/Tables.lean ====
section
/-! SUPPORT. What the well-formedness of the parameters gives: the codes of the font records (R151), the ends of the weight
curve (R136), and the built index as the inverse of the code words (R153). -/

namespace Sys2Proof.Machine

variable (t : Tables)

/-! ### The weight curve -/

theorem tables_shadeOk : t.data.shadeOk = true := by
  have := t.ok
  simp only [TableData.ok, Bool.and_eq_true] at this
  exact this.1.1.2

theorem shadeOf_zero : shadeOf t 0 = 0 := by
  have := tables_shadeOk t
  simp only [TableData.shadeOk, Bool.and_eq_true, beq_iff_eq] at this
  exact this.1.1.1

theorem shadeOf_last : shadeOf t 15 = 255 := by
  have := tables_shadeOk t
  simp only [TableData.shadeOk, Bool.and_eq_true, beq_iff_eq] at this
  exact this.1.1.2

/-- The weights do not decrease (R136). -/
theorem shadeOf_mono {a b : Nibble} (h : a ≤ b) : (shadeOf t a).toNat ≤ (shadeOf t b).toNat := by
  have hs := tables_shadeOk t
  simp only [TableData.shadeOk, Bool.and_eq_true, List.all_eq_true, List.mem_range, decide_eq_true_eq] at hs
  have step (k : Nat) (hk : k < 15) :
      (t.data.shade[k]'(by omega)).toNat ≤ (t.data.shade[k + 1]'(by omega)).toNat := by
    simpa [List.getD_eq_getElem?_getD, List.getElem?_eq_getElem, show k < 16 by omega, show k + 1 < 16 by omega]
      using hs.1.2 k hk
  have up (d : Nat) : ∀ (k : Nat) (hk : k + d < 16),
      (t.data.shade[k]'(by omega)).toNat ≤ (t.data.shade[k + d]'hk).toNat := by
    induction d with
    | zero => exact fun k hk => Nat.le_refl _
    | succ d ih => exact fun k hk => (ih k (by omega)).trans (step (k + d) (by omega))
  rw [BitVec.le_def] at h
  have := up (b.toNat - a.toNat) a.toNat (by have := b.isLt; omega)
  simpa only [shadeOf, Nat.add_sub_cancel' h] using this

/-! ### The font -/

theorem tables_fontOk : t.data.fontOk = true := by
  have := t.ok
  simp only [TableData.ok, Bool.and_eq_true] at this
  exact this.1.1.1

theorem codes_getElem? (i : Fin 95) : t.data.codes[i.val]? = some (fontCode t i) := by
  simp [TableData.codes, fontCode]

/-- Record 0 is the space (R151). -/
theorem fontCode_zero : fontCode t 0 = 0x20 := by
  have := tables_fontOk t
  simp only [TableData.fontOk, Bool.and_eq_true, beq_iff_eq] at this
  have h := codes_getElem? t 0
  rw [show ((0 : Fin 95) : Nat) = 0 from rfl, this.1.1.1] at h
  exact (Option.some.inj h).symm

/-- Record 94 carries the sentinel code (R78, R151). -/
theorem fontCode_last : fontCode t 94 = 0x7E := by
  have := tables_fontOk t
  simp only [TableData.fontOk, Bool.and_eq_true, beq_iff_eq] at this
  have h := codes_getElem? t 94
  rw [show ((94 : Fin 95) : Nat) = 94 from rfl, this.1.1.2] at h
  exact (Option.some.inj h).symm

/-- Every code of the printable range is some record's (R151). -/
theorem exists_fontCode (k : Fin 95) : ∃ i : Fin 95, fontCode t i = BitVec.ofNat 16 (0x20 + k.val) := by
  have := tables_fontOk t
  simp only [TableData.fontOk, Bool.and_eq_true, List.all_eq_true, List.mem_range, beq_iff_eq] at this
  have h : 0 < t.data.codes.count (BitVec.ofNat 16 (0x20 + k.val)) := by rw [this.1.2 k.val k.isLt]; exact Nat.one_pos
  obtain ⟨n, hn, he⟩ := List.getElem_of_mem (List.count_pos_iff.1 h)
  have hn' : n < 95 := by simpa [TableData.codes] using hn
  refine ⟨⟨n, hn'⟩, ?_⟩
  have h1 := codes_getElem? t ⟨n, hn'⟩
  rw [show ((⟨n, hn'⟩ : Fin 95) : Nat) = n from rfl, List.getElem?_eq_getElem hn, he] at h1
  exact (Option.some.inj h1).symm

theorem printable_inj {k l : Fin 95} (h : BitVec.ofNat 16 (0x20 + k.val) = BitVec.ofNat 16 (0x20 + l.val)) : k = l := by
  have := congrArg BitVec.toNat h
  simp only [BitVec.toNat_ofNat] at this
  omega

/-- Every record has a code of the printable range: there are as many records as codes. -/
theorem fontCode_printable (i : Fin 95) : ∃ k : Fin 95, fontCode t i = BitVec.ofNat 16 (0x20 + k.val) := by
  choose record hrecord using exists_fontCode t
  have hinj : Function.Injective record := fun k l h => printable_inj (by rw [← hrecord k, ← hrecord l, h])
  obtain ⟨k, hk⟩ := Finite.injective_iff_surjective.1 hinj i
  exact ⟨k, hk ▸ hrecord k⟩

/-- No two records share a code. -/
theorem fontCode_inj {i j : Fin 95} (h : fontCode t i = fontCode t j) : i = j := by
  choose record hrecord using exists_fontCode t
  have hinj : Function.Injective record := fun k l h => printable_inj (by rw [← hrecord k, ← hrecord l, h])
  obtain ⟨k, rfl⟩ := Finite.injective_iff_surjective.1 hinj i
  obtain ⟨l, rfl⟩ := Finite.injective_iff_surjective.1 hinj j
  rw [hrecord, hrecord] at h
  rw [printable_inj h]

/-! ### The built index -/

/-- The built index of a record's code is that record (R153). -/
theorem builtIndex_of_fontCode {c : Byte} {i : Fin 95} (h : fontCode t i = c.setWidth 16) : builtIndex t c = i := by
  unfold builtIndex
  split
  · have hj := List.find?_some ‹_›
    exact fontCode_inj t ((beq_iff_eq.1 hj).trans h.symm)
  · have := List.find?_eq_none.1 ‹_› i (List.mem_finRange i)
    simp [h] at this

/-- The built index of a byte that is no record's code is 0 (R153). -/
theorem builtIndex_of_not_code {c : Byte} (h : ∀ i : Fin 95, fontCode t i ≠ c.setWidth 16) : builtIndex t c = 0 := by
  unfold builtIndex
  split
  · have hj := List.find?_some ‹_›
    exact absurd (beq_iff_eq.1 hj) (h _)
  · rfl

/-- The range of the printable codes, as codes of records: a byte is a record's code exactly when it lies there (R151). -/
theorem isCode_iff (c : Byte) : (∃ i : Fin 95, fontCode t i = c.setWidth 16) ↔ 0x20 ≤ c.toNat ∧ c.toNat ≤ 0x7E := by
  have hc := c.isLt
  constructor
  · rintro ⟨i, hi⟩
    obtain ⟨k, hk⟩ := fontCode_printable t i
    have := congrArg BitVec.toNat (hk.symm.trans hi)
    simp only [BitVec.toNat_ofNat, BitVec.toNat_setWidth] at this
    omega
  · intro h
    obtain ⟨i, hi⟩ := exists_fontCode t ⟨c.toNat - 0x20, by omega⟩
    refine ⟨i, hi.trans (BitVec.eq_of_toNat_eq ?_)⟩
    simp only [BitVec.toNat_ofNat, BitVec.toNat_setWidth]
    omega

end Sys2Proof.Machine
end

