-- ==== Sys2Proof/Laws/Index.lean ====
section
/-! SUPPORT. What `BUILD_INDEX` leaves in the FontIndex (`44_font_table.md` R152, R153), and what a built index gives. -/

namespace Sys2Proof.Machine

open Sys2Proof.Safety

/-- The scan ends at record 94 (R78, R151). -/
theorem fontCode_eq_sentinel (t : Tables) (i : Fin 95) : fontCode t i = codeSentinel ↔ i = 94 := by
  rw [show codeSentinel = fontCode t 94 from (fontCode_last t).symm]
  exact ⟨fontCode_inj t, fun h => by rw [h]⟩

/-- A record's key is its code: code words fit a byte (R151). -/
theorem eq_lowByte_fontCode (t : Tables) (i : Fin 95) (c : Byte) :
    c = lowByte (fontCode t i) ↔ fontCode t i = c.setWidth 16 := by
  obtain ⟨k, hk⟩ := fontCode_printable t i
  have := c.isLt
  rw [hk, lowByte, ← BitVec.toNat_inj, ← BitVec.toNat_inj]
  simp
  omega

/-- One record of the scan. -/
theorem State.scanRecords_cons (i : Fin 95) (rest : List (Fin 95)) (s : State) :
    State.scanRecords (i :: rest) s =
      if fontCode s.params.tables i = codeSentinel then
        { s.indexWrite (lowByte (fontCode s.params.tables i)) (recordByte i) with count := { s.count with scan := i } }
      else State.scanRecords rest
        { s.indexWrite (lowByte (fontCode s.params.tables i)) (recordByte i) with count := { s.count with scan := i } } := rfl

/-- Reading after the scan of records that end with the sentinel: the record of a code among them, else what was there. -/
theorem State.scanRecords_read (pre : List (Fin 95)) (s : State)
    (hw : Memory.wf (indexDefault s.params.tables) s.index = true) (hpre : 94 ∉ pre) (hnd : pre.Nodup) (c : Byte) :
    (State.scanRecords (pre ++ [94]) s).count.scan = 94 ∧
    (∀ i ∈ pre ++ [94], fontCode s.params.tables i = c.setWidth 16 →
      (State.scanRecords (pre ++ [94]) s).indexRead c = recordByte i) ∧
    ((∀ i ∈ pre ++ [94], fontCode s.params.tables i ≠ c.setWidth 16) →
      (State.scanRecords (pre ++ [94]) s).indexRead c = s.indexRead c) := by
  induction pre generalizing s with
  | nil =>
    have hr := State.indexRead_indexWrite (s := s) (lowByte (fontCode s.params.tables 94)) (recordByte 94) c hw
    rw [List.nil_append, State.scanRecords_cons, if_pos ((fontCode_eq_sentinel _ _).2 rfl)]
    simp only [List.mem_singleton, forall_eq]
    refine ⟨trivial, fun h => hr.trans (if_pos ((eq_lowByte_fontCode _ _ _).2 h)), fun h =>
      hr.trans (if_neg (mt (eq_lowByte_fontCode _ _ _).1 h))⟩
  | cons i rest ih =>
    have hr := State.indexRead_indexWrite (s := s) (lowByte (fontCode s.params.tables i)) (recordByte i) c hw
    rw [List.nodup_cons] at hnd
    rw [List.mem_cons, not_or] at hpre
    rw [List.cons_append, State.scanRecords_cons, if_neg (mt (fontCode_eq_sentinel _ _).1 (Ne.symm hpre.1))]
    obtain ⟨h1, h2, h3⟩ := ih { s.indexWrite (lowByte (fontCode s.params.tables i)) (recordByte i) with
      count := { s.count with scan := i } } (State.indexWrite_wf _ _ hw) hpre.2 hnd.2
    refine ⟨h1, fun j hj h => ?_, fun h => ?_⟩
    · rcases List.mem_cons.1 hj with rfl | hj
      · refine (h3 fun k hk hk' => ?_).trans (hr.trans (if_pos ((eq_lowByte_fontCode _ _ _).2 h)))
        obtain rfl := fontCode_inj _ (h.trans hk'.symm)
        rcases List.mem_append.1 hk with hk | hk
        · exact hnd.1 hk
        · exact hpre.1 (List.mem_singleton.1 hk).symm
      · exact h2 j hj h
    · exact (h3 fun k hk => h k (List.mem_cons_of_mem _ hk)).trans
        (hr.trans (if_neg (mt (eq_lowByte_fontCode _ _ _).1 (h i List.mem_cons_self))))

/-- Reading after the zero fill. -/
theorem State.zeroIndex_read (s : State) (hw : Memory.wf (indexDefault s.params.tables) s.index = true) (c : Byte) :
    s.zeroIndex.indexRead c = 0 := by
  have key (ks : List Nat) (s : State) (hw : Memory.wf (indexDefault s.params.tables) s.index = true)
      (h : s.indexRead c = 0 ∨ c.toNat ∈ ks) :
      (ks.foldl (fun s k => s.indexWrite (BitVec.ofNat 8 k) 0) s).indexRead c = 0 := by
    induction ks generalizing s with
    | nil => simpa using h
    | cons k rest ih =>
      refine ih _ (State.indexWrite_wf _ _ hw) ?_
      rw [State.indexRead_indexWrite _ _ _ hw]
      split
      · exact .inl rfl
      · refine h.imp_right fun h => (List.mem_cons.1 h).resolve_left fun h => ?_
        subst h
        exact ‹¬c = _› (by simp)
  exact key _ s hw (.inr (by simpa [indexSize] using c.isLt))

/-- After `BUILD_INDEX` every element reads as the built index, and `SCAN` is at the last record. -/
theorem State.buildIndex_read (s : State) (hw : Memory.wf (indexDefault s.params.tables) s.index = true) (c : Byte) :
    s.buildIndex.indexRead c = recordByte (builtIndex s.params.tables c) ∧ s.buildIndex.count.scan = 94 := by
  have hp : s.zeroIndex.params = s.params := by rw [State.zeroIndex_frame s]
  have hl : List.finRange 95 = (List.finRange 95).dropLast ++ [94] := by decide
  have h := State.scanRecords_read (List.finRange 95).dropLast s.zeroIndex (State.zeroIndex_wf hw) (by decide)
    ((List.dropLast_sublist _).nodup (List.nodup_finRange 95)) c
  rw [← hl, hp] at h
  refine ⟨?_, h.1⟩
  by_cases hc : ∃ i : Fin 95, fontCode s.params.tables i = c.setWidth 16
  · obtain ⟨i, hi⟩ := hc
    rw [builtIndex_of_fontCode _ hi]
    exact h.2.1 i (List.mem_finRange i) hi
  · rw [not_exists] at hc
    rw [builtIndex_of_not_code _ hc]
    exact (h.2.2 fun i _ => hc i).trans (State.zeroIndex_read s hw c)

/-- `BUILD_INDEX` leaves every counter but `SCAN`. -/
theorem State.buildIndex_count (s : State) : s.buildIndex.count = { s.count with scan := s.buildIndex.count.scan } := by
  have scan (is : List (Fin 95)) (s : State) :
      (State.scanRecords is s).count = { s.count with scan := (State.scanRecords is s).count.scan } := by
    induction is generalizing s with
    | nil => rfl
    | cons i rest ih =>
      rw [State.scanRecords_cons]
      split
      · rfl
      · rw [ih]
  have zero (s : State) : s.zeroIndex.count = s.count := by
    unfold State.zeroIndex
    generalize List.range indexSize = ks
    induction ks generalizing s with
    | nil => rfl
    | cons k rest ih => exact ih _
  unfold State.buildIndex
  rw [scan, zero]

/-! ### A built index -/

/-- A built index lists nothing: every element reads as it does after reset. -/
theorem index_eq_nil_of_built {s : State} (h : IndexBuilt s) : s.index = [] := by
  refine Memory.eq_nil_of_read h.1 fun a ha => ?_
  have := h.2 (BitVec.ofNat 8 a)
  simp only [State.indexRead, BitVec.toNat_ofNat, Nat.mod_eq_of_lt (show a < 2 ^ 8 from ha)] at this
  rw [this]
  rfl

theorem built_of_index_eq_nil {s : State} (h : s.index = []) : IndexBuilt s := by
  refine ⟨by rw [h]; rfl, fun c => ?_⟩
  simp [State.indexRead, h, Memory.read, indexDefault]

/-- On a built index every character has a record: no glyph row fetch leaves the table (R158). -/
theorem State.glyphRecord_of_built {s : State} (h : IndexBuilt s) (c : Byte) :
    s.glyphRecord c = some (builtIndex s.params.tables c) := by
  rw [State.glyphRecord, index_eq_nil_of_built h]
  rfl

/-- The record a character draws is the one whose number `LOOKUP` gives (R166, R172). -/
theorem State.glyphRecord_eq_some_iff (s : State) (c : Byte) (g : Fin 95) :
    s.glyphRecord c = some g ↔ (s.indexRead c).toNat = g.val := by
  have hbyte (i : Fin 95) : (recordByte i).toNat = i.val := by simp [recordByte, show i.val < 256 by omega]
  unfold State.glyphRecord State.indexRead Memory.read
  cases s.index.find? c.toNat with
  | none => simp [indexDefault, hbyte, Fin.ext_iff]
  | some v =>
    have hg := g.isLt
    by_cases hv : v.toNat < 95
    · simp [hv, Fin.ext_iff]
    · simp only [hv, Option.getD_some]
      exact iff_of_false (by simp) (by omega)

end Sys2Proof.Machine
end

