-- ==== Sys2Proof/Laws/PerInstr.lean ====
section
/-! SUPPORT. A statement about every operation as syntax: the request that names it. The payload that follows a head word
has the length the word gives, and a command byte has no payload and is not 0. -/

namespace Sys2Proof.Laws.HeadWord

/-- The number of payload bytes a head word announces: `q[14:8]` of a `SEND_COMMAND`, else none (R87). -/
def announced (q : ReqWord) : Nat := if q.toNat / 2 ^ 56 = 3 then q.toNat / 2 ^ 8 % 2 ^ 7 else 0

/-- The request of a well-formed operation announces exactly the payload that follows it. -/
def Statement (i : Instr) : Prop :=
  i.wellFormed = true → ∀ ops : Opcodes,
    match encode ops i with
    | (.head q, payload) => payload.length = announced q
    | (.wire b, payload) => payload = [] ∧ b ≠ 0

/-- A head word of an operation other than `SEND_COMMAND` announces no payload. -/
theorem announced_eq_zero (op n : Nat) (hop : op < 2 ^ 8) (h3 : op ≠ 3) (hn : n < 2 ^ 56) :
    announced (BitVec.ofNat 64 (op * 2 ^ 56 + n)) = 0 := by
  rw [announced, if_neg]
  rw [BitVec.toNat_ofNat]
  omega

/-- The head word of a `SEND_COMMAND` announces its payload's length. -/
theorem announced_send (code n : Nat) (hc : code < 2 ^ 8) (hn : n < 2 ^ 7) :
    announced (BitVec.ofNat 64 (3 * 2 ^ 56 + (code + n * 2 ^ 8))) = n := by
  rw [announced, BitVec.toNat_ofNat, if_pos] <;> omega

/-- No opcode byte is 0 (R84). -/
theorem opcode_ne_zero (ops : Opcodes) {b : Byte} (hb : b ∈ ops.bytes.toList) : b ≠ 0 := by
  have h := ops.ok
  simp only [OpcodeBytes.ok, Bool.and_eq_true, Bool.not_eq_true', List.contains_eq_mem, decide_eq_false_iff_not] at h
  exact fun h0 => h.2 (h0 ▸ hb)

theorem startTransaction : Statement .startTransaction := fun _ _ => rfl
theorem endTransaction : Statement .endTransaction := fun _ _ => rfl
theorem sendCommand (code : Byte) (payload : List Byte) : Statement (.sendCommand code payload) := fun h _ =>
  (announced_send _ _ code.isLt (Nat.lt_succ_of_le (of_decide_eq_true h))).symm
theorem writeCommand (code : Byte) : Statement (.writeCommand code) := fun _ _ =>
  (announced_eq_zero _ _ (by decide) (by decide) (by have := code.isLt; omega)).symm
theorem writeData8 (b : Byte) : Statement (.writeData8 b) := fun _ _ =>
  (announced_eq_zero _ _ (by decide) (by decide) (by have := b.isLt; omega)).symm
theorem writeData16 (w : Half) : Statement (.writeData16 w) := fun _ _ =>
  (announced_eq_zero _ _ (by decide) (by decide) (by have := w.isLt; omega)).symm
theorem writeData32 (w : Word) : Statement (.writeData32 w) := fun _ _ =>
  (announced_eq_zero _ _ (by decide) (by decide) (by have := w.isLt; omega)).symm
theorem toDisplayColor (c12 : Color12) : Statement (.toDisplayColor c12) := fun _ _ =>
  (announced_eq_zero _ _ (by decide) (by decide) (by have := c12.isLt; omega)).symm
theorem packBurstWord (a b : Color16) : Statement (.packBurstWord a b) := fun _ _ =>
  (announced_eq_zero _ _ (by decide) (by decide) (by have := a.isLt; have := b.isLt; omega)).symm
theorem blend (tone : Nibble) (fore back : Color16) : Statement (.blend tone fore back) := fun _ _ =>
  (announced_eq_zero _ _ (by decide) (by decide)
    (by have := tone.isLt; have := fore.isLt; have := back.isLt; omega)).symm
theorem buildIndex : Statement .buildIndex := fun _ _ => rfl
theorem lookup (code : Byte) : Statement (.lookup code) := fun _ _ =>
  (announced_eq_zero _ _ (by decide) (by decide) (by have := code.isLt; omega)).symm
theorem streamGlyph (char : Byte) (fore back : Color16) : Statement (.streamGlyph char fore back) := fun _ _ =>
  (announced_eq_zero _ _ (by decide) (by decide)
    (by have := char.isLt; have := fore.isLt; have := back.isLt; omega)).symm
theorem streamFill (c16 : Color16) (n : Word) : Statement (.streamFill c16 n) := fun _ _ =>
  (announced_eq_zero _ _ (by decide) (by decide) (by have := c16.isLt; have := n.isLt; omega)).symm
theorem setWindow (x1 x2 y1 y2 : Coord14) : Statement (.setWindow x1 x2 y1 y2) := fun _ _ =>
  (announced_eq_zero _ _ (by decide) (by decide)
    (by have := x1.isLt; have := x2.isLt; have := y1.isLt; have := y2.isLt; omega)).symm
theorem initRun : Statement .initRun := fun _ _ => rfl
theorem beginDriver : Statement .beginDriver := fun _ _ => rfl
theorem setRotation (m : Byte) : Statement (.setRotation m) := fun _ _ =>
  (announced_eq_zero _ _ (by decide) (by decide) (by have := m.isLt; omega)).symm
theorem fillScreen (c12 : Color12) : Statement (.fillScreen c12) := fun _ _ =>
  (announced_eq_zero _ _ (by decide) (by decide) (by have := c12.isLt; omega)).symm
theorem drawChar (col row char : Byte) (fore12 back12 : Color12) : Statement (.drawChar col row char fore12 back12) :=
  fun _ _ => (announced_eq_zero _ _ (by decide) (by decide)
    (by have := col.isLt; have := row.isLt; have := char.isLt; have := fore12.isLt; have := back12.isLt; omega)).symm
theorem getWidth : Statement .getWidth := fun _ _ => rfl
theorem getHeight : Statement .getHeight := fun _ _ => rfl
theorem getRows : Statement .getRows := fun _ _ => rfl
theorem getColumns : Statement .getColumns := fun _ _ => rfl
theorem swreset : Statement .swreset := fun _ ops => ⟨rfl, opcode_ne_zero ops (by simp [OpcodeBytes.toList])⟩
theorem slpout : Statement .slpout := fun _ ops => ⟨rfl, opcode_ne_zero ops (by simp [OpcodeBytes.toList])⟩
theorem gammaset : Statement .gammaset := fun _ ops => ⟨rfl, opcode_ne_zero ops (by simp [OpcodeBytes.toList])⟩
theorem dispon : Statement .dispon := fun _ ops => ⟨rfl, opcode_ne_zero ops (by simp [OpcodeBytes.toList])⟩
theorem caset : Statement .caset := fun _ ops => ⟨rfl, opcode_ne_zero ops (by simp [OpcodeBytes.toList])⟩
theorem paset : Statement .paset := fun _ ops => ⟨rfl, opcode_ne_zero ops (by simp [OpcodeBytes.toList])⟩
theorem ramwr : Statement .ramwr := fun _ ops => ⟨rfl, opcode_ne_zero ops (by simp [OpcodeBytes.toList])⟩
theorem madctl : Statement .madctl := fun _ ops => ⟨rfl, opcode_ne_zero ops (by simp [OpcodeBytes.toList])⟩

end Sys2Proof.Laws.HeadWord
end

