-- ==== Sys2Proof/Laws/Stream.lean ====
section
/-! SUPPORT. The events of a glyph's rows (`45_pixel_streamer.md`): the memo shows in none of them (R169). -/

namespace Sys2Proof.Machine

/-- The memo, if valid, holds the blend of its tone in the latched colours (R168). -/
def MemoHolds (s : State) : Prop :=
  s.memo.valid = true → s.memo.color = blend s.params s.memo.tone s.hold.fore s.hold.back

/-- A pixel of a data row is the blend of its tone, whether the memo gives it or not. -/
theorem State.dataPixel_spec {s : State} (hm : MemoHolds s) (j : Fin 4) :
    (s.dataPixel j).trace = s.trace ++ [.tx16 (blend s.params (toneOf s.hold.rowWord j) s.hold.fore s.hold.back)]
      ∧ MemoHolds (s.dataPixel j)
      ∧ (s.dataPixel j).hold = { s.hold with tone := toneOf s.hold.rowWord j }
      ∧ (s.dataPixel j).params = s.params := by
  unfold State.dataPixel
  dsimp only
  split
  · rename_i h
    simp only [Memo.has, Bool.and_eq_true, beq_iff_eq] at h
    refine ⟨?_, hm, rfl, rfl⟩
    change s.trace ++ [.tx16 s.memo.color] = _
    rw [hm h.1, ← h.2]
  · exact ⟨rfl, fun _ => rfl, rfl, rfl⟩

/-- A data row: the blends of its four tones from left to right, then the border colour. -/
theorem State.dataRow_spec (s : State) (word : Half) :
    (s.dataRow word).trace = s.trace
        ++ [.tx16 (blend s.params (toneOf word 0) s.hold.fore s.hold.back),
            .tx16 (blend s.params (toneOf word 1) s.hold.fore s.hold.back),
            .tx16 (blend s.params (toneOf word 2) s.hold.fore s.hold.back),
            .tx16 (blend s.params (toneOf word 3) s.hold.fore s.hold.back), .tx16 s.hold.border]
      ∧ (s.dataRow word).hold.fore = s.hold.fore ∧ (s.dataRow word).hold.back = s.hold.back
      ∧ (s.dataRow word).hold.border = s.hold.border ∧ (s.dataRow word).params = s.params := by
  let s0 : State := { s with hold := { s.hold with rowWord := word }, memo := { s.memo with valid := false } }
  have h0 : MemoHolds s0 := fun h => by cases h
  obtain ⟨t1, m1, w1, p1⟩ := State.dataPixel_spec h0 0
  obtain ⟨t2, m2, w2, p2⟩ := State.dataPixel_spec m1 1
  obtain ⟨t3, m3, w3, p3⟩ := State.dataPixel_spec m2 2
  obtain ⟨t4, m4, w4, p4⟩ := State.dataPixel_spec m3 3
  rw [w1] at w2 t2
  rw [w2] at w3 t3
  rw [w3] at w4 t4
  rw [p1] at p2 t2
  rw [p2] at p3 t3
  rw [p3] at p4 t4
  have hrow : s.dataRow word = ((((s0.dataPixel 0).dataPixel 1).dataPixel 2).dataPixel 3).borderPixel 4 := rfl
  rw [hrow]
  have hb (u : State) : (u.borderPixel 4).trace = u.trace ++ [.tx16 u.hold.border] := rfl
  have hh (u : State) : (u.borderPixel 4).hold = u.hold := rfl
  have hp (u : State) : (u.borderPixel 4).params = u.params := rfl
  rw [hb, hh, hp, t4, t3, t2, t1, w4, p4]
  refine ⟨?_, rfl, rfl, rfl, rfl⟩
  simp only [List.append_assoc, List.cons_append, List.nil_append]
  rfl

/-- A border pixel appends the border colour, and writes `COL` besides. -/
theorem State.borderPixel_spec (s : State) (col : Fin 5) :
    (s.borderPixel col).trace = s.trace ++ [.tx16 s.hold.border]
      ∧ (s.borderPixel col).hold = s.hold ∧ (s.borderPixel col).params = s.params := ⟨rfl, rfl, rfl⟩

/-- A border row: five pixels of the border colour. -/
theorem State.borderRow_spec (s : State) (row : Fin 10) :
    (s.borderRow row).trace = s.trace ++ List.replicate 5 (.tx16 s.hold.border)
      ∧ (s.borderRow row).hold = s.hold ∧ (s.borderRow row).params = s.params := by
  have key (cols : List (Fin 5)) (s : State) :
      (cols.foldl State.borderPixel s).trace = s.trace ++ List.replicate cols.length (.tx16 s.hold.border)
        ∧ (cols.foldl State.borderPixel s).hold = s.hold ∧ (cols.foldl State.borderPixel s).params = s.params := by
    induction cols generalizing s with
    | nil => simp
    | cons col rest ih =>
      obtain ⟨ht, hh, hp⟩ := ih (s.borderPixel col)
      obtain ⟨ht', hh', hp'⟩ := s.borderPixel_spec col
      refine ⟨?_, hh.trans hh', hp.trans hp'⟩
      rw [List.foldl_cons, ht, ht', hh', List.append_assoc, List.length_cons, List.replicate_succ]
      rfl
  exact key [0, 1, 2, 3, 4] _

/-- A glyph row: the four tones of its font word, then the border colour. -/
theorem State.glyphDataRow_spec (g : Fin 95) (s : State) (k : Fin 9) :
    (s.glyphDataRow g k).trace = s.trace
        ++ [.tx16 (blend s.params (toneOf (glyphRow s.params.tables g k) 0) s.hold.fore s.hold.back),
            .tx16 (blend s.params (toneOf (glyphRow s.params.tables g k) 1) s.hold.fore s.hold.back),
            .tx16 (blend s.params (toneOf (glyphRow s.params.tables g k) 2) s.hold.fore s.hold.back),
            .tx16 (blend s.params (toneOf (glyphRow s.params.tables g k) 3) s.hold.fore s.hold.back), .tx16 s.hold.border]
      ∧ (s.glyphDataRow g k).hold.fore = s.hold.fore ∧ (s.glyphDataRow g k).hold.back = s.hold.back
      ∧ (s.glyphDataRow g k).hold.border = s.hold.border ∧ (s.glyphDataRow g k).params = s.params :=
  State.dataRow_spec _ _

end Sys2Proof.Machine
end

