-- ==== Sys2Proof/Laws/Wire.lean ====
section
/-! SUPPORT. Reading a trace piece by piece: the lines, the bytes and the frames of an append. -/

namespace Sys2Proof.Machine

/-- The lines after several events. -/
def Lines.afterAll (l : Lines) (es : List Event) : Lines := es.foldl Lines.after l

@[simp] theorem Lines.afterAll_nil (l : Lines) : l.afterAll [] = l := rfl
@[simp] theorem Lines.afterAll_cons (l : Lines) (e : Event) (es : List Event) :
    l.afterAll (e :: es) = (l.after e).afterAll es := rfl

theorem bytesFrom_append (l : Lines) (es es' : List Event) :
    bytesFrom l (es ++ es') = bytesFrom l es ++ bytesFrom (l.afterAll es) es' := by
  induction es generalizing l with
  | nil => rfl
  | cons e rest ih => simp [bytesFrom, ih]

theorem replayFrom_append (l : Lines) (es es' : List Event) :
    replayFrom l (es ++ es') = (replayFrom l es).bind fun l' => replayFrom l' es' := by
  induction es generalizing l with
  | nil => rfl
  | cons e rest ih =>
    simp only [List.cons_append, replayFrom]
    split
    · exact ih _
    · rfl

/-- A replay that goes through ends at the lines the events leave. -/
theorem replayFrom_some {l l' : Lines} {es : List Event} (h : replayFrom l es = some l') : l' = l.afterAll es := by
  induction es generalizing l with
  | nil => exact (Option.some.inj h).symm
  | cons e rest ih =>
    simp only [replayFrom] at h
    split at h
    · exact ih h
    · cases h

/-- The bytes of words sent while the lines stand at `l` with chip-select asserted. -/
theorem bytesFrom_words {l : Lines} (hl : l.cs = .asserted) {es : List Event} (h : ∀ e ∈ es, l.after e = l) :
    bytesFrom l es = (es.flatMap Event.wireBytes).map fun b => (l.dc, b) := by
  induction es with
  | nil => rfl
  | cons e rest ih =>
    rw [List.forall_mem_cons] at h
    simp [bytesFrom, hl, h.1, ih h.2]

/-! ### Frames -/

theorem marksFrom_append (l : Lines) (es es' : List Event) :
    marksFrom l (es ++ es') = marksFrom l es ++ marksFrom (l.afterAll es) es' := by
  induction es generalizing l with
  | nil => rfl
  | cons e rest ih => simp [marksFrom, ih]

/-- A mark's byte, with the selector it was sent under. -/
def Mark.byte? : Mark → Option (Selector × Byte)
  | .byte dc b => some (dc, b)
  | .release => none

/-- Without the ends of transactions the marks are the byte-level projection (R14). -/
theorem marksFrom_bytes (l : Lines) (es : List Event) : (marksFrom l es).filterMap Mark.byte? = bytesFrom l es := by
  have one (l : Lines) (e : Event) : (l.marks e).filterMap Mark.byte?
      = if l.cs = .asserted then e.wireBytes.map (fun b => (l.dc, b)) else [] := by
    cases e <;> simp [Lines.marks, Event.wireBytes, Mark.byte?] <;> split <;> rfl
  induction es generalizing l with
  | nil => rfl
  | cons e rest ih => rw [marksFrom, List.filterMap_append, one, ih]; rfl

theorem dataRun_map_data (bs : List Byte) (ms : List Mark) :
    dataRun (bs.map (.byte .data) ++ ms) = bs ++ dataRun ms := by
  induction bs with
  | nil => rfl
  | cons b rest ih => simp [dataRun, ih]

theorem dataRun_append_cmd (xs ys : List Mark) (code : Byte) : dataRun (xs ++ .byte .cmd code :: ys) = dataRun xs := by
  induction xs with
  | nil => rfl
  | cons x rest ih => rcases x with ⟨sel, b⟩ | _ <;> [cases sel; skip] <;> simp [dataRun, ih]

/-- A command byte starts a frame of its own. -/
theorem framesIn_append_cmd (xs ys : List Mark) (code : Byte) :
    framesIn (xs ++ .byte .cmd code :: ys) = framesIn xs ++ framesIn (.byte .cmd code :: ys) := by
  induction xs with
  | nil => rfl
  | cons x rest ih =>
    rcases x with ⟨sel, b⟩ | _ <;> [cases sel; skip] <;> simp [framesIn, ih, dataRun_append_cmd]

theorem dataRun_append_release (xs ys : List Mark) : dataRun (xs ++ .release :: ys) = dataRun xs := by
  induction xs with
  | nil => rfl
  | cons x rest ih => rcases x with ⟨sel, b⟩ | _ <;> [cases sel; skip] <;> simp [dataRun, ih]

/-- Nothing after the end of a transaction joins a frame before it. -/
theorem framesIn_append_release (xs ys : List Mark) :
    framesIn (xs ++ .release :: ys) = framesIn xs ++ framesIn ys := by
  induction xs with
  | nil => rfl
  | cons x rest ih =>
    rcases x with ⟨sel, b⟩ | _ <;> [cases sel; skip] <;> simp [framesIn, ih, dataRun_append_release]

theorem framesIn_map_data (bs : List Byte) (ms : List Mark) :
    framesIn (bs.map (.byte .data) ++ ms) = framesIn ms := by
  induction bs with
  | nil => rfl
  | cons b rest ih => simp [framesIn, ih]

end Sys2Proof.Machine
end

