-- ==== Sys2Proof/Tests/Slice0.lean ====
section
/-! SUPPORT. Tests. The expected values are those of `95_test_vectors.md` (its ids are cited), or are worked out by hand from
the numbered rules; the tables are that file's invented examples. Then one witness for the hypotheses of each statement. -/

namespace Sys2Proof.Tests

open Sys2Proof.Machine Sys2Proof.Safety

/-! ### Helpers -/

/-- After reset, with the example tables. -/
def fresh : State := State.resetWith ⟨exampleTables, Config.opcodes, Config.readings⟩

/-- As `fresh`, under other readings of the source. -/
def reading (r : Readings) : State := State.resetWith ⟨exampleTables, Config.opcodes, r⟩

/-- As `fresh`, with another init script. -/
def scripted (script : List Byte) (h : TableData.ok { exampleTableData with script := script } = true) : State :=
  State.resetWith ⟨⟨{ exampleTableData with script := script }, h⟩, Config.opcodes, Config.readings⟩

/-- A bracket has just been opened after reset (B1.1). -/
def opened : State := { fresh with framer := ⟨true, .asserted, .unknown⟩, trace := openEvents fresh.params }

/-- A bracket is open and a command has been sent in it. -/
def sending : State :=
  { fresh with framer := ⟨true, .asserted, .data⟩, trace := openEvents fresh.params ++ commandEvents 0x2C }

/-- The window cache as after `SET_WINDOW(0, 4, 0, 9)` (B7.1). -/
def cached (s : State) : State := { s with window := ⟨0, 4, true, 0, 9, true⟩ }

/-- The events an operation appended. -/
def added (i : Instr) (s : State) : Option (List Event) :=
  match exec i s with
  | .next t => some (t.trace.drop s.trace.length)
  | .fault _ | .refused _ => none

/-- The bytes of those events, sent as data or as commands in an open bracket. -/
def addedBytes (i : Instr) (s : State) : Option (List (Selector × Byte)) :=
  (added i s).map (bytesFrom ⟨s.framer.txn, s.framer.cs, s.framer.dc⟩)

/-- The 16-bit words among those events. -/
def addedWords (i : Instr) (s : State) : Option (List Half) :=
  (added i s).map (List.filterMap fun e => match e with | .tx16 w => some w | _ => none)

/-- The response of an operation. -/
def answered (i : Instr) (s : State) : Option Word :=
  match exec i s with
  | .next t => t.resp
  | .fault _ | .refused _ => none

/-- A field of the state an operation leaves. -/
def leaves {α : Type} (f : State → α) (i : Instr) (s : State) : Option α :=
  match exec i s with
  | .next t => some (f t)
  | .fault _ | .refused _ => none

/-- Why an operation was refused. -/
def refusal (o : Outcome) : Option Refusal :=
  match o with
  | .refused r => some r
  | .next _ | .fault _ => none

/-! ### Well-formedness -/

/-- The one check: a payload of 128 bytes does not fit `n = q[14:8]`; 127 do (R104). -/
theorem test_wellFormed_payload :
    (Instr.sendCommand 0x36 (List.replicate 128 0)).wellFormed = false
      ∧ (Instr.sendCommand 0x36 (List.replicate 127 0)).wellFormed = true := by decide +kernel

/-! ### Decoding: each constructor from a word written out bit by bit from R88 -/

/-- Operation number in bits 63 to 56, no operands (R88). -/
theorem test_decode_no_operands :
    decodeTableWord 64 0x0100000000000000 = some .startTransaction
      ∧ decodeTableWord 64 0x0200000000000000 = some .endTransaction
      ∧ decodeTableWord 64 0x2000000000000000 = some .buildIndex
      ∧ decodeTableWord 64 0x3100000000000000 = some .initRun
      ∧ decodeTableWord 64 0x3800000000000000 = some .beginDriver
      ∧ decodeTableWord 64 0x3C00000000000000 = some .getWidth
      ∧ decodeTableWord 64 0x3D00000000000000 = some .getHeight
      ∧ decodeTableWord 64 0x3E00000000000000 = some .getRows
      ∧ decodeTableWord 64 0x3F00000000000000 = some .getColumns := by decide

/-- B10: the framer's operations. -/
theorem test_decode_framer :
    decodeTableWord 64 0x0400000000000036 = some (.writeCommand 0x36)
      ∧ decodeTableWord 64 0x0500000000000048 = some (.writeData8 0x48)
      ∧ decodeTableWord 64 0x060000000000F800 = some (.writeData16 0xF800)
      ∧ decodeTableWord 64 0x07000000E00700F8 = some (.writeData32 0xE00700F8) := by decide

/-- B10: `SEND_COMMAND(0x36, [0x48])`, one payload byte, and a byte after it that stays on the port. -/
theorem test_decode_sendCommand :
    decode Config.opcodes (.head 0x0300000000000136) [0x48, 0x99] = .ok (.sendCommand 0x36 [0x48]) [0x99] := by decide

/-- B10: colours and the blender. -/
theorem test_decode_colours :
    decodeTableWord 64 0x1000000000000ABC = some (.toDisplayColor 0xABC)
      ∧ decodeTableWord 64 0x1100000007E0F800 = some (.packBurstWord 0xF800 0x07E0)
      ∧ decodeTableWord 64 0x18000007FFFF0000 = some (.blend 7 0xFFFF 0x0000) := by decide

/-- B10: the font table and the streamer. -/
theorem test_decode_streamer :
    decodeTableWord 64 0x2100000000000041 = some (.lookup 0x41)
      ∧ decodeTableWord 64 0x28000041FFFF0000 = some (.streamGlyph 0x41 0xFFFF 0x0000)
      ∧ decodeTableWord 64 0x2900F80000000004 = some (.streamFill 0xF800 4) := by decide

/-- B10: the window and the facade. -/
theorem test_decode_facade :
    decodeTableWord 64 0x3000000040000009 = some (.setWindow 0 4 0 9)
      ∧ decodeTableWord 64 0x3000000EF000013F = some (.setWindow 0 239 0 319)
      ∧ decodeTableWord 64 0x3900000000000005 = some (.setRotation 5)
      ∧ decodeTableWord 64 0x3A00000000000F00 = some (.fillScreen 0xF00)
      ∧ decodeTableWord 64 0x3B3F17410ABC0123 = some (.drawChar 63 23 0x41 0xABC 0x123) := by decide

/-- All 56 operand bits of `SET_WINDOW` are assigned: `x1` in bits 55 to 42, and so on down (R88). -/
theorem test_decode_setWindow_fields :
    decodeTableWord 64 0x3080020004000801 = some (.setWindow 0x2000 0x2000 0x1000 0x0801) := by decide

/-- The default command bytes of R84. -/
theorem test_decode_wire :
    ([0x01, 0x11, 0x26, 0x29, 0x2A, 0x2B, 0x2C, 0x36].map (decodeTableWord 8))
      = [some .swreset, some .slpout, some .gammaset, some .dispon, some .caset, some .paset, some .ramwr, some .madctl]
      ∧ decodeTableWord 8 0x00 = none ∧ decodeTableWord 8 0x3A = none := by decide

/-- The encoder on the same words. -/
theorem test_encode :
    encode Config.opcodes (.drawChar 63 23 0x41 0xABC 0x123) = (.head 0x3B3F17410ABC0123, [])
      ∧ encode Config.opcodes (.sendCommand 0x36 [0x48]) = (.head 0x0300000000000136, [0x48])
      ∧ encode Config.opcodes (.setWindow 0 239 0 319) = (.head 0x3000000EF000013F, [])
      ∧ encode Config.opcodes .paset = (.wire 0x2B, []) := by decide

/-! ### One step of each operation -/

/-- B1.1. -/
theorem test_startTransaction :
    added .startTransaction fresh = some [.busBegin 0 0, .csAssert]
      ∧ leaves (·.framer) .startTransaction fresh = some ⟨true, .asserted, .unknown⟩ := by decide

/-- B1.6, and B1.10: refused after reset. -/
theorem test_endTransaction :
    added .endTransaction sending = some [.csDeassert, .busEnd]
      ∧ leaves (·.framer) .endTransaction sending = some ⟨false, .deasserted, .data⟩
      ∧ refusal (exec .endTransaction fresh) = some .noTransaction := by decide

/-- B1.7. -/
theorem test_sendCommand :
    added (.sendCommand 0x36 [0x48]) fresh = some [.busBegin 0 0, .csAssert, .dcCmd, .tx8 0x36, .dcData, .tx8 0x48,
      .csDeassert, .busEnd] := by decide

/-- B1.8: no payload; and B1.14: refused in a bracket. -/
theorem test_sendCommand_empty :
    added (.sendCommand 0x11 []) fresh = some [.busBegin 0 0, .csAssert, .dcCmd, .tx8 0x11, .dcData, .csDeassert, .busEnd]
      ∧ refusal (exec (.sendCommand 0x36 [0x48]) opened) = some .nestedTransaction := by decide

/-- B1.2: the selector is at data afterwards; B1.13: refused with no bracket open. -/
theorem test_writeCommand :
    added (.writeCommand 0x2C) opened = some [.dcCmd, .tx8 0x2C, .dcData]
      ∧ leaves (·.framer.dc) (.writeCommand 0x2C) opened = some .data
      ∧ refusal (exec (.writeCommand 0x2C) fresh) = some .noTransaction := by decide

/-- B1.3 and B1.12: no command since reset. -/
theorem test_writeData8 :
    addedBytes (.writeData8 0x48) sending = some [(.data, 0x48)]
      ∧ refusal (exec (.writeData8 0x00) opened) = some .selectorUnknown := by decide

/-- B1.4: high byte first. -/
theorem test_writeData16 : addedBytes (.writeData16 0x013F) sending = some [(.data, 0x01), (.data, 0x3F)] := by decide

/-- B1.5: low byte first. -/
theorem test_writeData32 :
    addedBytes (.writeData32 0xE00700F8) sending = some [(.data, 0xF8), (.data, 0x00), (.data, 0x07), (.data, 0xE0)] := by
  decide

/-- B2. -/
theorem test_toDisplayColor :
    ([0x000, 0xFFF, 0xF00, 0x0F0, 0x00F, 0x010, 0x123, 0x5A5, 0xABC, 0xEEE].map fun c => answered (.toDisplayColor c) fresh)
      = [some 0x0000, some 0xFFFF, some 0xF800, some 0x07E0, some 0x001F, some 0x00E0, some 0x1907, some 0x5D0B, some 0xA5F8,
         some 0xE71C] := by decide

/-- B2, the column of the other reading. -/
theorem test_toDisplayColor_lsbOnly :
    ([0xFFF, 0x0F0, 0x070, 0x123].map (toDisplayColor .lsbOnly)) = [0xFFBF, 0x07A0, 0x03A0, 0x1907] := by decide

/-- B3. -/
theorem test_packBurstWord :
    answered (.packBurstWord 0xF800 0x07E0) fresh = some 0xE00700F8
      ∧ answered (.packBurstWord 0x1234 0xABCD) fresh = some 0xCDAB3412
      ∧ (Event.tx32 0xCDAB3412).wireBytes = [0x12, 0x34, 0xAB, 0xCD] := by decide

/-- B4: the mix. -/
theorem test_mix :
    [mix 0 15 0, mix 0 1 9, mix 255 0 15, mix 128 15 0, mix 60 15 5, mix 200 9 4, mix 17 1 0, mix 254 15 15]
      = [14, 0, 14, 7, 12, 5, 0, 14] := by decide

/-- B4: the ends, and a colour whose precision bits are not its own. -/
theorem test_blend_ends :
    [answered (.blend 0 0xFFFF 0x0000) fresh, answered (.blend 0 0x1234 0x0000) fresh,
      answered (.blend 15 0x001F 0x07E0) fresh, answered (.blend 15 0xFFFF 0xF800) fresh,
      answered (.blend 5 0x0800 0x0021) fresh]
      = [some 0xE71C, some 0x01F3, some 0x0700, some 0xE000, some 0x0000] := by decide

/-- B4: `BLEND(t, 0xA5F8, 0x1907)` with the example curve. -/
theorem test_blend_curve :
    ((List.range 16).map fun t => blend fresh.params (BitVec.ofNat 4 t) 0xA5F8 0x1907)
      = [0x9D17, 0x9D17, 0x9D17, 0x84F4, 0x84F4, 0x7C13, 0x7C13, 0x63F0, 0x5B0F, 0x5B0F, 0x42EC, 0x3A0B, 0x3A0B, 0x21E8,
         0x1907, 0x00E4] := by decide

/-- R145 by hand: the source's properties A8 and A9 under the other mix; R146 by hand: white at weight 0 gives the fields 30,
62 and 30. -/
theorem test_blend_readings :
    blend (reading ⟨.both, .nibble, .exactEndpoints⟩).params 0 0xFFFF 0x0000 = 0xFFFF
      ∧ blend (reading ⟨.both, .nibble, .exactEndpoints⟩).params 15 0xFFFF 0xF800 = 0xF800
      ∧ blend (reading ⟨.both, .nibble, .exactEndpoints⟩).params 7 0x1907 0x1907 = 0x1907
      ∧ blend (reading ⟨.both, .field, .literal⟩).params 0 0xFFFF 0x0000 = 0xF7DE
      ∧ blend (reading ⟨.both, .field, .literal⟩).params 0 0x0040 0x0000 = 0x0060 := by decide

/-- R152's example: the scan of record 33 writes 33 at `0x41`; the sentinel is recorded before the scan ends (B5.4). -/
theorem test_buildIndex_scan :
    (State.scanRecords [33, 94, 34] { fresh with index := [(0x41, 7)] }).indexRead 0x41 = 33
      ∧ (State.scanRecords [33, 94, 34] { fresh with index := [(0x7E, 7)] }).indexRead 0x7E = 94
      ∧ (State.scanRecords [33, 94, 34] { fresh with index := [(0x42, 7)] }).indexRead 0x42 = 7 := by decide

/-- B5.7, through the law of `BUILD_INDEX`, from an index that holds wrong values. -/
theorem test_buildIndex :
    ([0x20, 0x41, 0x7E, 0x7F, 0xFF] : List Byte).map
        (State.indexRead (State.buildIndex { fresh with index := [(0x20, 7), (0x7F, 9)] })) = [0, 33, 94, 0, 0] := by
  have h := fun c => (State.buildIndex_read { fresh with index := [(0x20, 7), (0x7F, 9)] } (by decide) c).1
  simp only [List.map, h]
  decide

/-- B5. -/
theorem test_lookup :
    ([0x20, 0x41, 0x7E, 0x7F, 0x00, 0x1F, 0x80, 0xFF].map fun c => answered (.lookup c) fresh)
      = [some 0, some 33, some 94, some 0, some 0, some 0, some 0, some 0] := by decide

/-- B5.3, B5.6 and B5.8. -/
theorem test_tones :
    ([0, 1, 2, 3].map (toneOf 0xF40F)) = [0xF, 0x4, 0x0, 0xF] ∧ glyphRow exampleTables 33 2 = 0xF44F
      ∧ ([0, 1, 2, 3].map (toneOf 0x0770)) = [0x0, 0x7, 0x7, 0x0] := by decide

/-- B6.1. -/
theorem test_streamGlyph :
    addedWords (.streamGlyph 0x41 0xFFFF 0x0000) sending = some
      [0x0000, 0x0000, 0x0000, 0x0000, 0x0000, 0x0000, 0x0000, 0x0000, 0x0000, 0x0000,
       0x0000, 0xC618, 0xC618, 0x0000, 0x0000, 0xC618, 0x0000, 0x0000, 0xC618, 0x0000,
       0xE71C, 0x0000, 0x0000, 0xE71C, 0x0000, 0xE71C, 0xE71C, 0xE71C, 0xE71C, 0x0000,
       0xE71C, 0x9CF3, 0x9CF3, 0xE71C, 0x0000, 0xE71C, 0x0000, 0x0000, 0xE71C, 0x0000,
       0x0000, 0x0000, 0x0000, 0x0000, 0x0000, 0x0000, 0x0000, 0x0000, 0x0000, 0x0000] := by decide +kernel

/-- B6.3: an unknown character; B6.10: no bracket. -/
theorem test_streamGlyph_unknown :
    addedWords (.streamGlyph 0x80 0x001F 0x07E0) sending = some (List.replicate 50 0x0700)
      ∧ refusal (exec (.streamGlyph 0x41 0xFFFF 0x0000) fresh) = some .noTransaction := by decide +kernel

/-- B6.5, B6.6, B6.7. -/
theorem test_streamFill :
    added (.streamFill 0xF800 4) sending = some [.tx32 0x00F800F8, .tx32 0x00F800F8]
      ∧ added (.streamFill 0xF800 0) sending = some []
      ∧ refusal (exec (.streamFill 0xF800 3) sending) = some .oddPixelCount := by decide

/-- B7.1. -/
theorem test_setWindow :
    addedBytes (.setWindow 0 4 0 9) opened = some [(.cmd, 0x2A), (.data, 0), (.data, 0), (.data, 0), (.data, 4),
      (.cmd, 0x2B), (.data, 0), (.data, 0), (.data, 0), (.data, 9), (.cmd, 0x2C)]
      ∧ leaves (·.window) (.setWindow 0 4 0 9) opened = some ⟨0, 4, true, 0, 9, true⟩ := by decide

/-- B7.2 and B7.3: what the cache holds is not sent again. -/
theorem test_setWindow_elided :
    addedBytes (.setWindow 0 4 0 9) (cached sending) = some [(.cmd, 0x2C)]
      ∧ addedBytes (.setWindow 5 9 0 9) (cached sending) = some [(.cmd, 0x2A), (.data, 0), (.data, 5), (.data, 0), (.data, 9),
        (.cmd, 0x2C)] := by decide

/-- B8.1: the records of the example script. -/
theorem test_initRun_records :
    initRecords fresh.params = [⟨0x01, [], true⟩, ⟨0x11, [], true⟩, ⟨0x3A, [0x55], false⟩, ⟨0x29, [], true⟩] := by decide

/-- B8.3: one frame with two payload bytes, and no delay. -/
theorem test_initRun :
    added .initRun (scripted [0xB1, 0x02, 0x00, 0x18, 0x00] (by decide)) = some [.busBegin 0 0, .csAssert, .dcCmd,
      .tx8 0xB1, .dcData, .tx8 0x00, .tx8 0x18, .csDeassert, .busEnd]
      ∧ leaves (·.count.sptr) .initRun (scripted [0xB1, 0x02, 0x00, 0x18, 0x00] (by decide)) = some 4 := by decide

/-- B8.5: sleep-out without the flag still gets the longer delay; a flagged record of another command gets the shorter. -/
theorem test_settle :
    settle fresh.params 0x11 false = [.delay 2] ∧ settle fresh.params 0x01 true = [.delay 1]
      ∧ settle fresh.params 0x3A false = [] := by decide

/-- R204: `BEGIN` sets the flag; B9.12: refused in a bracket. -/
theorem test_beginDriver :
    leaves (fun t => (t.initialized, t.framer)) .beginDriver fresh = some (true, ⟨false, .deasserted, .data⟩)
      ∧ refusal (exec .beginDriver opened) = some .nestedTransaction := by decide

/-- B9.3: 5 acts as 1. -/
theorem test_setRotation :
    leaves (·.display) (.setRotation 5) fresh = some ⟨1, 320, 240, 24, 64⟩
      ∧ added (.setRotation 5) fresh = some [.busBegin 0 0, .csAssert, .dcCmd, .tx8 0x36, .dcData, .tx8 0x28, .csDeassert,
        .busEnd] := by decide

/-- B9.5 and B9.4. -/
theorem test_setRotation_others :
    leaves (·.display) (.setRotation 255) fresh = some ⟨3, 320, 240, 24, 64⟩
      ∧ leaves (·.display) (.setRotation 2) fresh = some ⟨2, 240, 320, 32, 48⟩ := by decide

/-- B9.12, and P1: the window cache after a fill. -/
theorem test_fillScreen :
    refusal (exec (.fillScreen 0xF00) opened) = some .nestedTransaction
      ∧ leaves (·.window) (.fillScreen 0xF00) fresh = some ⟨0, 239, true, 0, 319, true⟩ := by decide

/-- B9.8: the last cell. -/
theorem test_drawChar_last :
    leaves (·.window) (.drawChar 47 31 0x41 0xFFF 0x000) fresh = some ⟨235, 239, true, 310, 319, true⟩
      ∧ ((added (.drawChar 47 31 0x41 0xFFF 0x000) fresh).map (bytes ·)).map List.length = some 111 := by decide +kernel

/-- B9.7 and B9.13: outside the grid nothing happens, in a bracket too. -/
theorem test_drawChar_clipped :
    [leaves id (.drawChar 48 0 0x41 0xFFF 0x000) fresh, leaves id (.drawChar 0 32 0x41 0xFFF 0x000) fresh,
      leaves id (.drawChar 255 255 0x41 0xFFF 0x000) fresh] = [some fresh, some fresh, some fresh]
      ∧ added (.drawChar 48 0 0x41 0xFFF 0x000) opened = some []
      ∧ refusal (exec (.drawChar 47 0 0x41 0xFFF 0x000) opened) = some .nestedTransaction := by decide +kernel

/-- B9.1. -/
theorem test_reads :
    [answered .getWidth fresh, answered .getHeight fresh, answered .getRows fresh, answered .getColumns fresh]
      = [some 240, some 320, some 32, some 48] := by decide

/-- P4 step 2: after a rotation. -/
theorem test_reads_rotated :
    [answered .getWidth (fresh.rotate 1), answered .getHeight (fresh.rotate 1), answered .getRows (fresh.rotate 1),
      answered .getColumns (fresh.rotate 1)] = [some 320, some 240, some 24, some 64] := by decide

/-- R71: a command byte with a bracket open is sent as `WRITE_COMMAND` sends it, each under its default (R84). -/
theorem test_wire_in_bracket :
    ([.swreset, .slpout, .gammaset, .dispon, .caset, .paset, .ramwr, .madctl].map fun i => addedBytes i opened)
      = [some [(.cmd, 0x01)], some [(.cmd, 0x11)], some [(.cmd, 0x26)], some [(.cmd, 0x29)], some [(.cmd, 0x2A)],
         some [(.cmd, 0x2B)], some [(.cmd, 0x2C)], some [(.cmd, 0x36)]] := by decide

/-- The same with no bracket open: a whole frame without payload (B1.8). -/
theorem test_wire_alone :
    added .slpout fresh = some [.busBegin 0 0, .csAssert, .dcCmd, .tx8 0x11, .dcData, .csDeassert, .busEnd] := by decide

/-! ### Requests and refusals -/

/-- B10: refused words, and a byte that names no command. -/
theorem test_refused_requests :
    refusal (step (offer fresh (.head 0x3C00000000000001) [])) = some .reservedBits
      ∧ refusal (step (offer fresh (.head 0x1000000000001000) [])) = some .reservedBits
      ∧ refusal (step (offer fresh (.head 0x0800000000000000) [])) = some .unknownOp
      ∧ refusal (step (offer fresh (.head 0) [])) = some .unknownOp
      ∧ refusal (step (offer fresh (.wire 0x3A) [])) = some .unknownWireCommand := by decide

/-- P5: with the refused steps 5 and 7, the run goes on, and holds the eight events twice. -/
theorem test_run_P5 :
    (run [(.head 0x0300000000000136, [0x48]), (.head 0x0100000000000000, []), (.head 0x0400000000000036, []),
        (.head 0x0500000000000048, []), (.head 0x3A00000000000F00, []), (.head 0x0200000000000000, []),
        (.head 0x0200000000000000, [])] fresh).2
      = [.completed, .completed, .completed, .completed, .refused .nestedTransaction, .completed,
         .refused .noTransaction] := by decide

/-- R253: a `SEND_COMMAND` offered without its payload byte has not completed, the request after it is not issued, and the run
has not ended well; with the byte it completes, and the next request runs. -/
theorem test_run_missing_payload :
    (run [(.head 0x0300000000000136, []), (.head 0x3C00000000000000, [])] fresh).2 = [.waiting]
      ∧ (run [(.head 0x0300000000000136, [0x48]), (.head 0x3C00000000000000, [])] fresh).2 = [.completed, .completed] := by
  decide

theorem test_run_missing_payload_not_well : ¬EndedWell (run [(.head 0x0300000000000136, [])] fresh) := by
  intro h
  exact absurd (h.1 .waiting (by decide)) (by decide)

/-- R71: a frame ends at the next command byte and at the end of the transaction; the data byte of B1.15, in a later bracket
with no command, joins no frame. -/
theorem test_frames :
    frames (openEvents fresh.params ++ commandEvents 0x2A ++ [.tx16 0x0102] ++ commandEvents 0x2C ++ [.tx8 0x33]
      ++ closeEvents ++ openEvents fresh.params ++ [.tx8 0x55] ++ closeEvents)
      = [⟨0x2A, [0x01, 0x02]⟩, ⟨0x2C, [0x33]⟩] := by decide

/-! ### A witness for the hypotheses of each statement

`test_meets_X` shows states and operands that meet the hypotheses of `Obligations.X`, for each of its clauses, at the ends of
their ranges. -/

/-- `fresh`, `opened` and `sending` are states the invariant holds in: the lines agree with the trace, the display with its
rotation, and the FontIndex lists nothing. -/
theorem test_inv (s : State) (hs : s = fresh ∨ s = opened ∨ s = sending) : Inv s := by
  rcases hs with rfl | rfl | rfl <;>
    exact ⟨⟨by decide, by decide, by unfold CommandFirst; decide⟩, by unfold SelectorAtRest; decide, by unfold DisplayAgrees; decide,
      built_of_index_eq_nil rfl⟩

theorem test_meets_DecodeOfEncodeGivesTheInstr :
    (Instr.sendCommand 0x36 [0x48]).wellFormed = true ∧ (Instr.sendCommand 0 []).wellFormed = true
      ∧ (Instr.drawChar 0xFF 0xFF 0xFF 0xFFF 0xFFF).wellFormed = true ∧ Instr.madctl.wellFormed = true := by decide

theorem test_meets_EncodeOfDecodeGivesTheRequest :
    decode Config.opcodes (.head 0x0300000000000236) [1, 2, 3] = .ok (.sendCommand 0x36 [1, 2]) [3]
      ∧ decode Config.opcodes (.wire 0x36) [] = .ok .madctl [] := by decide

/-- Both ends of each range of R91 (6). -/
theorem test_meets_UnassignedOperationNumberIsRefused :
    ([0x00, 0x08, 0x0F, 0x12, 0x17, 0x19, 0x1F, 0x22, 0x27, 0x2A, 0x2F, 0x32, 0x37, 0x40, 0xFF] : List Nat).all
      (fun op => refusal (step (offer fresh (.head (BitVec.ofNat 64 (op * 2 ^ 56))) [])) == some .unknownOp) = true := by
  decide

/-- The lowest reserved bit of every row that has one, and the highest of some; both fields of `0x3B`. -/
theorem test_meets_ReservedBitIsRefused :
    ([0x0100000000000001, 0x0200000000000001, 0x0300000000008000, 0x0400000000000100, 0x0500000000000100,
      0x0600000000010000, 0x0700000100000000, 0x1000000000001000, 0x1100000100000000, 0x1800001000000000,
      0x2000000000000001, 0x2100000000000100, 0x2800010000000000, 0x2901000000000000, 0x3100000000000001,
      0x3800000000000001, 0x3900000000000100, 0x3A00000000001000, 0x3B00000000001000, 0x3B00000000008000,
      0x3B00000010000000, 0x3B00000080000000, 0x3C00000000000001, 0x3D00000000000001, 0x3E00000000000001,
      0x3F00000000000001, 0x0180000000000000, 0x0380000000000000, 0x1880000000000000, 0x2980000000000000]
      : List ReqWord).all (fun q => refusal (step (offer fresh (.head q) [])) == some .reservedBits) = true := by decide

theorem test_meets_StepRunsTheDecodedInstr :
    (offer fresh (.head 0x0300000000000136) [0x48]).requests = [.head 0x0300000000000136]
      ∧ decode fresh.params.opcodes (.head 0x0300000000000136) [0x48] = .ok (.sendCommand 0x36 [0x48]) [] := by decide

/-- No request; a `SEND_COMMAND` that lacks its one byte, and one that lacks the last of 127. -/
theorem test_meets_BlockWaitsForItsRequest :
    fresh.requests = []
      ∧ ([(0x0300000000000136, 0), (0x0300000000007F36, 126)] : List (ReqWord × Nat)).all (fun p =>
        p.1.toNat / 2 ^ 56 == 3 && p.1 &&& 0x00FFFFFFFFFF8000 == 0 && decide (p.2 < p.1.toNat / 2 ^ 8 % 2 ^ 7)) = true := by
  decide

theorem test_meets_StartTransactionOpensABracket : fresh.framer.txn = false ∧ opened.framer.txn = true := by decide
theorem test_meets_EndTransactionClosesTheBracket : opened.framer.txn = true ∧ fresh.framer.txn = false := by decide
theorem test_meets_WriteCommandSendsTheOpcode : opened.framer.txn = true ∧ fresh.framer.txn = false := by decide
theorem test_meets_SendCommandSendsAWholeFrame : fresh.framer.txn = false ∧ opened.framer.txn = true := by decide
theorem test_meets_WriteDataSendsOneWord :
    (sending.framer.txn = true ∧ sending.framer.dc = .data) ∧ fresh.framer.txn = false
      ∧ (opened.framer.txn = true ∧ opened.framer.dc ≠ .data) := by decide
theorem test_meets_SendCommandIsItsExpansion : fresh.framer.txn = false := by decide
theorem test_meets_SendCommandAddsOneFrame :
    (LinesAgree fresh ∧ fresh.framer.txn = false) ∧ LinesAgree sending ∧ sending.framer.txn = true :=
  ⟨⟨(test_inv fresh (by simp)).lines, by decide⟩, (test_inv sending (by simp)).lines, by decide⟩
/-- A bracket, none, and an operation that sends three command bytes of its own. -/
theorem test_meets_WireCommandSendsItsFrameHead :
    opened.framer.txn = true ∧ fresh.framer.txn = false ∧ sendsGivenCode (.setWindow 0 4 0 9) = false
      ∧ (added (.setWindow 0 4 0 9) opened).map commandCodes = some [0x2A, 0x2B, 0x2C] := by decide

theorem test_meets_BlendMixesNibbles :
    fresh.params.readings.blendChannels = .nibble ∧ fresh.params.readings.mixMode = .literal := by decide
theorem test_meets_BlendMixesFields :
    (reading ⟨.both, .field, .literal⟩).params.readings.blendChannels = .field
      ∧ (reading ⟨.lsbOnly, .field, .exactEndpoints⟩).params.readings.blendChannels = .field := by decide
theorem test_meets_ExactEndpointsKeepTheColour :
    (reading ⟨.both, .nibble, .exactEndpoints⟩).params.readings.blendChannels = .nibble
      ∧ (reading ⟨.both, .nibble, .exactEndpoints⟩).params.readings.mixMode = .exactEndpoints := by decide
/-- The ends of each range, a weight above another, a foreground above and below the background, and a tone above another. -/
theorem test_meets_MixStaysBetweenItsChannels :
    (255 ≤ 255 ∧ 15 ≤ 15) ∧ (0 ≤ 255 ∧ 255 ≤ 255) ∧ (0 ≤ 15 ∧ ¬15 ≤ 0) ∧ (0 : Nibble) ≤ 15 := by decide
theorem test_meets_EndTonesLoseOne : fresh.params.readings = Config.readings ∧ 0 ≤ 15 ∧ 15 ≤ 15 := by decide
theorem test_meets_BlendCommutesWithConversion :
    (fresh.params.readings.blendChannels = .nibble ∧ fresh.params.readings.mixMode = .literal)
      ∧ (reading ⟨.both, .nibble, .exactEndpoints⟩).params.readings.blendChannels = .nibble := by decide
/-- A tone not above another; in each of the three nibbles the background the greater, and the foreground. -/
theorem test_meets_BlendIsMonotoneInTone :
    fresh.params.readings.blendChannels = .nibble ∧ fresh.params.readings.mixMode = .literal ∧ (0 : Nibble) ≤ 15
      ∧ ([12, 7, 1].all fun lo => decide ((0x0000 : Color16).extractLsb' lo 4 < (0xFFFF : Color16).extractLsb' lo 4)) = true
      := by decide

/-- A canonical index; a byte that is a record's code, and one that is none. -/
theorem test_meets_BuildIndexBuildsTheIndex :
    Memory.wf (indexDefault fresh.params.tables) fresh.index = true
      ∧ Memory.wf (indexDefault fresh.params.tables) [(0x20, 7), (0x7F, 9)] = true
      ∧ fontCode fresh.params.tables 33 = (0x41 : Byte).setWidth 16
      ∧ ∀ i : Fin 95, fontCode fresh.params.tables i ≠ (0x7F : Byte).setWidth 16 := by decide
/-- The ends of the printable range, and the codes on either side of it. -/
theorem test_meets_LookupFindsTheGlyph :
    IndexBuilt fresh ∧ ((0x20 ≤ (0x20 : Byte).toNat ∧ (0x20 : Byte).toNat ≤ 0x7E)
      ∧ (0x20 ≤ (0x7E : Byte).toNat ∧ (0x7E : Byte).toNat ≤ 0x7E)
      ∧ (0x1F : Byte).toNat < 0x20 ∧ 0x7E < (0x7F : Byte).toNat) :=
  ⟨(test_inv fresh (by simp)).index, by decide⟩
theorem test_meets_StreamGlyphSendsTheCell :
    sending.framer.txn = true ∧ sending.framer.dc = .data ∧ (sending.indexRead 0x41).toNat = (33 : Fin 95).val
      ∧ (sending.indexRead 0x80).toNat = 0 ∧ (sending.indexRead 0x7E).toNat = 94 := by decide
theorem test_meets_UnknownCharacterDrawsTheSpace :
    (sending.framer.txn = true ∧ sending.framer.dc = .data) ∧ IndexBuilt sending
      ∧ (0x1F : Byte).toNat < 0x20 ∧ 0x7E < (0x7F : Byte).toNat :=
  ⟨by decide, (test_inv sending (by simp)).index, by decide⟩
/-- Counts 0, 4 and the largest even one; 3 and the largest. -/
theorem test_meets_StreamFillSendsBurstWords :
    (sending.framer.txn = true ∧ sending.framer.dc = .data) ∧ (opened.framer.txn = true ∧ opened.framer.dc ≠ .data)
      ∧ fresh.framer.txn = false
      ∧ ([0, 4, 0xFFFFFFFE] : List Word).map (·.toNat % 2) = [0, 0, 0]
      ∧ ([3, 0xFFFFFFFF] : List Word).map (·.toNat % 2) = [1, 1] := by decide
theorem test_meets_FillCountsWordsAndYields : (leaves id (.streamFill 0xF800 4) sending).isSome = true := by decide
theorem test_meets_StreamGlyphNeedsABracketAndData :
    fresh.framer.txn = false ∧ opened.framer.txn = true ∧ opened.framer.dc ≠ .data := by decide

/-- Both axes not held, both held, and one of each. -/
theorem test_meets_SetWindowProgramsTheChangedAxes :
    opened.framer.txn = true ∧ fresh.framer.txn = false ∧ opened.window.xv = false ∧ opened.window.yv = false
      ∧ (cached opened).window.hasColumns 0 4 = true ∧ (cached opened).window.hasRows 0 9 = true
      ∧ (cached opened).window.hasColumns 5 9 = false := by decide
theorem test_meets_SecondWindowIsElided : (leaves id (.setWindow 0 4 0 9) opened).isSome = true := by decide
theorem test_meets_WindowCacheIsNeverInvalidated :
    (cached fresh).window.xv = true ∧ (cached fresh).window.yv = true ∧ step (cached fresh) = .next (cached fresh) :=
  ⟨by decide, by decide, rfl⟩

theorem test_meets_InitRunReplaysTheScript : fresh.framer.txn = false ∧ opened.framer.txn = true := by decide
theorem test_meets_InitRunIsRepeatable : (leaves id .initRun (scripted [0] (by decide))).isSome = true := by decide
theorem test_meets_BeginReplaysTheScriptAndSetsTheFlag : fresh.framer.txn = false ∧ opened.framer.txn = true := by decide
/-- Rotations of both pairs. -/
theorem test_meets_SetRotationWritesTheDisplay :
    fresh.framer.txn = false ∧ opened.framer.txn = true ∧ (0 : Byte).toNat % 4 = 0 ∧ (255 : Byte).toNat % 4 = 3
      ∧ (2 : Byte).toNat % 4 = 2 ∧ (1 : Byte).toNat % 4 = 1 := by decide
theorem test_meets_RotationRepeatsModuloFour : (leaves id (.setRotation 3) fresh).isSome = true := by decide
theorem test_meets_FillScreenSendsEveryPixel :
    fresh.framer.txn = false ∧ DisplayAgrees fresh ∧ DisplayAgrees (fresh.rotate 1) ∧ opened.framer.txn = true := by
  unfold DisplayAgrees; decide
theorem test_meets_FillScreenIsItsExpansion : fresh.framer.txn = false ∧ DisplayAgrees fresh := by
  unfold DisplayAgrees; decide
/-- The first column and the first row outside the grid (B9.7, B9.10). -/
theorem test_meets_DrawCharClipsOutsideTheGrid :
    fresh.display.columns.toNat ≤ (48 : Byte).toNat ∧ fresh.display.rows.toNat ≤ (32 : Byte).toNat
      ∧ (fresh.rotate 1).display.columns.toNat ≤ (64 : Byte).toNat
      ∧ (fresh.rotate 1).display.rows.toNat ≤ (24 : Byte).toNat := by decide
/-- The last cell, and the first. -/
theorem test_meets_DrawCharDrawsTheCell :
    (47 : Byte).toNat < fresh.display.columns.toNat ∧ (31 : Byte).toNat < fresh.display.rows.toNat
      ∧ (0 : Byte).toNat < fresh.display.columns.toNat ∧ (0 : Byte).toNat < fresh.display.rows.toNat
      ∧ fresh.framer.txn = false ∧ (fresh.indexRead 0x41).toNat = (33 : Fin 95).val ∧ opened.framer.txn = true := by decide
theorem test_meets_DrawCharIsItsExpansion :
    fresh.framer.txn = false ∧ (47 : Byte).toNat < fresh.display.columns.toNat
      ∧ (31 : Byte).toNat < fresh.display.rows.toNat := by decide
/-- Neither pair held, and both. -/
theorem test_meets_DrawCharSendsThisManyBytes :
    Inv fresh ∧ fresh.framer.txn = false ∧ (0 : Byte).toNat < fresh.display.columns.toNat
      ∧ (0 : Byte).toNat < fresh.display.rows.toNat ∧ fresh.window.xv = false
      ∧ (cached fresh).window.hasColumns 0 4 = true ∧ (cached fresh).window.hasRows 0 9 = true :=
  ⟨test_inv fresh (by simp), by decide⟩
/-- Each of the four reasons. -/
theorem test_meets_RefusalsAreTheListedOnes :
    (DisplayAgrees opened ∧ DisplayAgrees fresh ∧ DisplayAgrees sending)
      ∧ refusal (exec .startTransaction opened) = some .nestedTransaction
      ∧ refusal (exec (.setWindow 0 4 0 9) fresh) = some .noTransaction
      ∧ refusal (exec (.writeData16 0) opened) = some .selectorUnknown
      ∧ refusal (exec (.streamFill 0 3) sending) = some .oddPixelCount := by
  unfold DisplayAgrees; decide
theorem test_meets_NoOperationFaults : IndexBuilt fresh := (test_inv fresh (by simp)).index
theorem test_meets_PublicOperationsCompleteAndRelease :
    isPublic (.drawChar 0 0 0x41 0xFFF 0) = true ∧ Inv fresh ∧ fresh.framer.txn = false :=
  ⟨by decide, test_inv fresh (by simp), by decide⟩
/-- A byte that is a record's code whatever the font, and one that is none. -/
theorem test_meets_ResetValuesAreTheSpecs :
    fontCode State.reset.params.tables 94 = (0x7E : Byte).setWidth 16
      ∧ ∀ i : Fin 95, fontCode State.reset.params.tables i ≠ (0x7F : Byte).setWidth 16 :=
  ⟨fontCode_last _, fun i hi => absurd ((isCode_iff _ _).1 ⟨i, hi⟩) (by decide)⟩
theorem test_meets_StepKeepsTheInvariant : Inv fresh ∧ step fresh = .next fresh
    ∧ Inv sending ∧ (leaves id (.writeData8 1) sending).isSome = true :=
  ⟨test_inv fresh (by simp), rfl, test_inv sending (by simp), by decide⟩
theorem test_meets_NoByteOutsideABracket : LinesAgree sending := (test_inv sending (by simp)).lines
theorem test_meets_TraceOnlyGrowsAndIsNeverRead :
    (leaves id (.writeData8 1) sending).isSome = true
      ∧ refusal (exec .startTransaction opened) = some .nestedTransaction
      ∧ (match exec (.streamGlyph 0 0 0) { sending with index := [(0, 200)] } with
        | .fault .fontRecordOutOfRange => true | .next _ | .refused _ => false) = true := by decide
/-- An operation the first clause names; a read, which no clause names; and one that leaves the selector as it was. -/
theorem test_meets_OnlyNamedOperationsWriteState :
    (leaves id (.setRotation 1) fresh).isSome = true ∧ (leaves id .getWidth fresh).isSome = true ∧ isPure .getWidth = true
      ∧ (∀ m, Instr.getWidth ≠ .setRotation m) ∧ performsWriteCommand (.writeData8 1) = false
      ∧ (leaves id (.writeData8 1) sending).isSome = true ∧ LinesAgree sending := by
  refine ⟨by decide, by decide, by decide, fun m h => by (cases h), by decide, by decide, (test_inv sending (by simp)).lines⟩
theorem test_meets_InitializedGatesNothing :
    (leaves id (.setRotation 1) fresh).isSome = true ∧ refusal (exec .endTransaction fresh) = some .noTransaction
      ∧ (match exec (.streamGlyph 0 0 0) { sending with index := [(0, 200)] } with
        | .fault .fontRecordOutOfRange => true | .next _ | .refused _ => false) = true := by decide
theorem test_meets_TransientRegistersCarryNothing :
    (leaves id (.lookup 0x41) fresh).isSome = true ∧ refusal (exec .endTransaction fresh) = some .noTransaction
      ∧ (match exec (.streamGlyph 0 0 0) { sending with index := [(0, 200)] } with
        | .fault .fontRecordOutOfRange => true | .next _ | .refused _ => false) = true := by decide


end Sys2Proof.Tests
end

section
/-! PROOFS. The statements of `00_scope.md`: a step runs the operation it decodes (R2, R87), and no byte leaves outside a
bracket or before a command byte (R14, R108). -/

namespace Sys2Proof.Machine

/-! ### Taking a request -/

section
variable {s : State} {r : Request} {later : List Request} {i : Instr} {bytes : List Byte}

/-- A request that decodes is taken off its port, with the payload bytes it decodes to. -/
theorem State.fetch_of_decode (hr : s.requests = r :: later) (hd : decode s.params.opcodes r s.bytePort = .ok i bytes) :
    s.fetch = .run i { s with requests := later, bytePort := bytes } := by
  simp [State.fetch, hr, hd]

theorem step_of_fetch_run {s' : State} (h : s.fetch = .run i s') : step s = exec i s' := by
  simp [step, h]

end

/-! ### Traces on which every event stands where it may -/

section
variable {l l' : Lines} {e : Event} {rest w : List Event}

theorem replayFrom_cons_eq_some :
    replayFrom l (e :: rest) = some l' ↔ l.admits e = true ∧ replayFrom (l.after e) rest = some l' := by
  simp [replayFrom]

/-- Only words have bytes, and they are admitted only with chip-select asserted and the selector known (R108). -/
theorem Lines.asserted_known_of_admits (h : l.admits e = true) (hb : e.wireBytes ≠ []) :
    l.cs = .asserted ∧ l.dc ≠ .unknown := by
  cases e with
  | tx8 | tx16 | tx32 => simpa [Lines.admits] using h
  | busBegin | busEnd | csAssert | csDeassert | dcCmd | dcData | delay | yield => exact absurd rfl hb

/-- An admitted event loses none of its bytes to the projection. -/
theorem bytesFrom_cons_of_admits (h : l.admits e = true) :
    bytesFrom l (e :: rest) = e.wireBytes.map (fun b => (l.dc, b)) ++ bytesFrom (l.after e) rest := by
  by_cases hb : e.wireBytes = []
  · simp [bytesFrom, hb]
  · simp [bytesFrom, (Lines.asserted_known_of_admits h hb).1]

theorem bytesFrom_map_snd_of_replayFrom (h : replayFrom l w = some l') :
    (bytesFrom l w).map (·.2) = w.flatMap Event.wireBytes := by
  induction w generalizing l with
  | nil => rfl
  | cons e rest ih =>
    obtain ⟨he, hrest⟩ := replayFrom_cons_eq_some.1 h
    simp [bytesFrom_cons_of_admits he, ih hrest, Function.comp_def]

theorem bytesFrom_known_of_replayFrom (h : replayFrom l w = some l') : ∀ p ∈ bytesFrom l w, p.1 ≠ .unknown := by
  induction w generalizing l with
  | nil => simp [bytesFrom]
  | cons e rest ih =>
    obtain ⟨he, hrest⟩ := replayFrom_cons_eq_some.1 h
    rw [bytesFrom_cons_of_admits he]
    intro p hp
    rcases List.mem_append.1 hp with hp | hp
    · obtain ⟨b, hb, rfl⟩ := List.mem_map.1 hp
      exact (Lines.asserted_known_of_admits he (List.ne_nil_of_mem hb)).2
    · exact ih hrest p hp

end

end Sys2Proof.Machine

namespace Sys2Proof.Safety

open Sys2Proof.Machine

/-! ### The first byte of the wire -/

section
variable {s : State} {p : Selector × Byte} {ps : List (Selector × Byte)}

theorem CommandFirst.fst_of_bytes_cons (h : CommandFirst s) (hs : bytes s.trace = p :: ps) : p.1 = .cmd := by
  obtain ⟨hnone, hfirst⟩ := h
  by_cases hdc : s.framer.dc = .unknown
  · simp [hnone hdc] at hs
  · simpa [hs] using hfirst hdc

/-- What stands before a data byte is not empty, and starts with the command byte that opens the wire. -/
theorem CommandFirst.exists_cmd_before_data (h : CommandFirst s) {before after : List (Selector × Byte)} {b : Byte}
    (hs : bytes s.trace = before ++ (.data, b) :: after) : ∃ code, (.cmd, code) ∈ before := by
  cases before with
  | nil => exact nomatch h.fst_of_bytes_cons hs
  | cons q qs =>
    obtain ⟨dc, code⟩ := q
    obtain rfl : dc = .cmd := h.fst_of_bytes_cons hs
    exact ⟨code, List.mem_cons_self⟩

end

/-! ### The obligations -/

/-- Settles O56: the first byte of the wire is a command byte, and a replayed trace admits a word only with chip-select
asserted and the selector known. -/
theorem noByteOutsideABracket : Obligations.NoByteOutsideABracket := by
  rintro s ⟨hreplay, -, hfirst⟩
  exact ⟨fun _ _ _ => hfirst.exists_cmd_before_data, bytesFrom_map_snd_of_replayFrom hreplay,
    bytesFrom_known_of_replayFrom hreplay⟩

/-- Settles O6: the request is taken as it decodes, and the step runs what was taken. -/
theorem stepRunsTheDecodedInstr : Obligations.StepRunsTheDecodedInstr :=
  fun _ _ _ _ _ hr hd => step_of_fetch_run (State.fetch_of_decode hr hd)

end Sys2Proof.Safety
end

section
/-! PROOFS. The statements of `10_state.md`: which operation writes which state (R34, R36), what every step keeps (R24, R27,
R67, R108), and the registers no operation reads or carries on (R21 to R23, R32, R169). -/

namespace Sys2Proof.Machine

open Sys2Proof.Safety

/-! ### What a completed operation leaves -/

/-- Every way an operation completes: the tests it has passed, and the state it leaves. -/
inductive Completes (s : State) : Instr → State → Prop
  | startTransaction (closed : s.framer.txn = false) : Completes s .startTransaction s.startTransaction.finish
  | endTransaction (opened : s.framer.txn = true) : Completes s .endTransaction s.endTransaction.finish
  | sendCommand (closed : s.framer.txn = false) (code : Byte) (payload : List Byte) :
      Completes s (.sendCommand code payload) (s.sendCommand code payload).finish
  | writeCommand (opened : s.framer.txn = true) (code : Byte) :
      Completes s (.writeCommand code) (s.writeCommand code).finish
  | writeData8 (opened : s.framer.txn = true) (data : s.framer.dc = .data) (b : Byte) :
      Completes s (.writeData8 b) (s.emit (.tx8 b)).finish
  | writeData16 (opened : s.framer.txn = true) (data : s.framer.dc = .data) (w : Half) :
      Completes s (.writeData16 w) (s.emit (.tx16 w)).finish
  | writeData32 (opened : s.framer.txn = true) (data : s.framer.dc = .data) (w : Word) :
      Completes s (.writeData32 w) (s.emit (.tx32 w)).finish
  | toDisplayColor (c12 : Color12) :
      Completes s (.toDisplayColor c12) (s.respond (toDisplayColor s.params.readings.greenFill c12))
  | packBurstWord (a b : Color16) : Completes s (.packBurstWord a b) (s.respond (packBurstWord a b))
  | blend (tone : Nibble) (fore back : Color16) : Completes s (.blend tone fore back)
      ({ s with hold := { s.hold with fore := fore, back := back } }.respond (blend s.params tone fore back))
  | buildIndex : Completes s .buildIndex s.buildIndex.finish
  | lookup (code : Byte) : Completes s (.lookup code)
      ({ s with hold := { s.hold with char := code, glyph := s.indexRead code } }.respond (s.indexRead code))
  | streamGlyph (opened : s.framer.txn = true) (data : s.framer.dc = .data) (g : Fin 95) (char : Byte)
      (fore back : Color16) (record : s.glyphRecord char = some g) :
      Completes s (.streamGlyph char fore back) (s.streamGlyph g char fore back).finish
  | streamFill (opened : s.framer.txn = true) (data : s.framer.dc = .data) (c16 : Color16) (n : Word)
      (even : n.getLsbD 0 = false) : Completes s (.streamFill c16 n) (s.streamFill c16 n).finish
  | setWindow (opened : s.framer.txn = true) (x1 x2 y1 y2 : Coord14) : Completes s (.setWindow x1 x2 y1 y2)
      (s.setWindow (x1.setWidth 16) (x2.setWidth 16) (y1.setWidth 16) (y2.setWidth 16)).finish
  | initRun (closed : s.framer.txn = false) : Completes s .initRun s.initRun.finish
  | beginDriver (closed : s.framer.txn = false) : Completes s .beginDriver s.initRun.markInitialized.finish
  | setRotation (closed : s.framer.txn = false) (m : Byte) : Completes s (.setRotation m)
      ((s.rotate (rotationOf m)).sendCommand s.params.opcodes.bytes.madctl
        [madctlOf s.params.tables (rotationOf m)]).finish
  | fillScreen (closed : s.framer.txn = false) (c12 : Color12) (even : (pixelCount s.display).getLsbD 0 = false) :
      Completes s (.fillScreen c12)
      ((((s.startTransaction).setWindow 0 (s.display.width - 1) 0 (s.display.height - 1)).streamFill
        (toDisplayColor s.params.readings.greenFill c12) (pixelCount s.display)).endTransaction).finish
  | drawCharClipped (col row char : Byte) (fore12 back12 : Color12) (outside : s.clips col row = true) :
      Completes s (.drawChar col row char fore12 back12) s.finish
  | drawChar (closed : s.framer.txn = false) (g : Fin 95) (col row char : Byte) (fore12 back12 : Color12)
      (inside : s.clips col row = false) (record : s.glyphRecord char = some g) :
      Completes s (.drawChar col row char fore12 back12) (s.drawCell g col row char fore12 back12).finish
  | getWidth : Completes s .getWidth (s.respond s.display.width)
  | getHeight : Completes s .getHeight (s.respond s.display.height)
  | getRows : Completes s .getRows (s.respond s.display.rows)
  | getColumns : Completes s .getColumns (s.respond s.display.columns)
  | swreset : Completes s .swreset (s.sendFrameHead s.params.opcodes.bytes.swreset).finish
  | slpout : Completes s .slpout (s.sendFrameHead s.params.opcodes.bytes.slpout).finish
  | gammaset : Completes s .gammaset (s.sendFrameHead s.params.opcodes.bytes.gammaset).finish
  | dispon : Completes s .dispon (s.sendFrameHead s.params.opcodes.bytes.dispon).finish
  | caset : Completes s .caset (s.sendFrameHead s.params.opcodes.bytes.caset).finish
  | paset : Completes s .paset (s.sendFrameHead s.params.opcodes.bytes.paset).finish
  | ramwr : Completes s .ramwr (s.sendFrameHead s.params.opcodes.bytes.ramwr).finish
  | madctl : Completes s .madctl (s.sendFrameHead s.params.opcodes.bytes.madctl).finish

section
variable {s t : State} {i : Instr}

theorem completes_of_execStreamGlyph {char : Byte} {fore back : Color16} (h : execStreamGlyph char fore back s = .next t) :
    Completes s (.streamGlyph char fore back) t := by
  obtain ⟨opened, data, hk⟩ := State.inDataMode_next.1 h
  split at hk
  · cases hk
    exact .streamGlyph opened data _ _ _ _ ‹_›
  · cases hk

theorem completes_of_execDrawChar {col row char : Byte} {fore12 back12 : Color12}
    (h : execDrawChar col row char fore12 back12 s = .next t) : Completes s (.drawChar col row char fore12 back12) t := by
  unfold execDrawChar at h
  split at h
  · cases h
    exact .drawCharClipped _ _ _ _ _ ‹_›
  · obtain ⟨closed, hk⟩ := State.outOfBracket_next.1 h
    split at hk
    · cases hk
      exact .drawChar closed _ _ _ _ _ _ (Bool.eq_false_iff.2 ‹_›) ‹_›
    · cases hk

theorem Completes.of_next {f : State} (h : (.next f : Outcome) = .next t) (hf : Completes s i f) : Completes s i t := by
  cases h
  exact hf

theorem Completes.of_outOfBracket {f : State} (h : s.outOfBracket (.next f) = .next t)
    (hf : s.framer.txn = false → Completes s i f) : Completes s i t := by
  obtain ⟨closed, ⟨⟩⟩ := State.outOfBracket_next.1 h
  exact hf closed

theorem Completes.of_inBracket {f : State} (h : s.inBracket (.next f) = .next t)
    (hf : s.framer.txn = true → Completes s i f) : Completes s i t := by
  obtain ⟨opened, ⟨⟩⟩ := State.inBracket_next.1 h
  exact hf opened

theorem Completes.of_inDataMode {f : State} (h : s.inDataMode (.next f) = .next t)
    (hf : s.framer.txn = true → s.framer.dc = .data → Completes s i f) : Completes s i t := by
  obtain ⟨opened, data, ⟨⟩⟩ := State.inDataMode_next.1 h
  exact hf opened data

/-- An operation that completes does so in one of these ways. -/
theorem completes_of_exec (h : exec i s = .next t) : Completes s i t := by
  cases i with
  | startTransaction => exact .of_outOfBracket h .startTransaction
  | endTransaction => exact .of_inBracket h .endTransaction
  | sendCommand => exact .of_outOfBracket h (.sendCommand · _ _)
  | writeCommand => exact .of_inBracket h (.writeCommand · _)
  | writeData8 => exact .of_inDataMode h (.writeData8 · · _)
  | writeData16 => exact .of_inDataMode h (.writeData16 · · _)
  | writeData32 => exact .of_inDataMode h (.writeData32 · · _)
  | streamGlyph => exact completes_of_execStreamGlyph h
  | streamFill =>
    obtain ⟨opened, data, hk⟩ := State.inDataMode_next.1 h
    obtain ⟨even, ⟨⟩⟩ := evenCount_next.1 hk
    exact .streamFill opened data _ _ even
  | setWindow => exact .of_inBracket h (.setWindow · _ _ _ _)
  | initRun => exact .of_outOfBracket h .initRun
  | beginDriver => exact .of_outOfBracket h .beginDriver
  | setRotation => exact .of_outOfBracket h (.setRotation · _)
  | fillScreen =>
    obtain ⟨closed, hk⟩ := State.outOfBracket_next.1 h
    obtain ⟨even, ⟨⟩⟩ := evenCount_next.1 hk
    exact .fillScreen closed _ even
  | drawChar => exact completes_of_execDrawChar h
  | toDisplayColor | packBurstWord | blend | buildIndex | lookup | getWidth | getHeight | getRows | getColumns
  | swreset | slpout | gammaset | dispon | caset | paset | ramwr | madctl => exact .of_next h (by constructor)

end

section
variable (s : State)

/-! ### The fields the composite operations leave alone -/

@[simp] theorem State.setWindow_keeps (x1 x2 y1 y2 : Half) :
    (s.setWindow x1 x2 y1 y2).requests = s.requests ∧ (s.setWindow x1 x2 y1 y2).bytePort = s.bytePort ∧
    (s.setWindow x1 x2 y1 y2).framer = ⟨s.framer.txn, s.framer.cs, .data⟩ ∧
    (s.setWindow x1 x2 y1 y2).display = s.display ∧ (s.setWindow x1 x2 y1 y2).initialized = s.initialized ∧
    (s.setWindow x1 x2 y1 y2).index = s.index ∧ (s.setWindow x1 x2 y1 y2).params = s.params := by
  rw [s.setWindow_frame]
  simp

@[simp] theorem State.streamGlyph_keeps (g : Fin 95) (char : Byte) (fore back : Color16) :
    (s.streamGlyph g char fore back).requests = s.requests ∧
    (s.streamGlyph g char fore back).bytePort = s.bytePort ∧
    (s.streamGlyph g char fore back).framer = s.framer ∧ (s.streamGlyph g char fore back).display = s.display ∧
    (s.streamGlyph g char fore back).initialized = s.initialized ∧
    (s.streamGlyph g char fore back).window = s.window ∧ (s.streamGlyph g char fore back).index = s.index ∧
    (s.streamGlyph g char fore back).params = s.params := by
  rw [s.streamGlyph_frame]
  simp

@[simp] theorem State.initRun_keeps :
    s.initRun.requests = s.requests ∧ s.initRun.bytePort = s.bytePort ∧ s.initRun.display = s.display ∧
    s.initRun.initialized = s.initialized ∧ s.initRun.window = s.window ∧ s.initRun.index = s.index ∧
    s.initRun.params = s.params := by
  rw [s.initRun_frame]
  simp

@[simp] theorem State.buildIndex_keeps :
    s.buildIndex.requests = s.requests ∧ s.buildIndex.bytePort = s.bytePort ∧ s.buildIndex.framer = s.framer ∧
    s.buildIndex.display = s.display ∧ s.buildIndex.initialized = s.initialized ∧ s.buildIndex.window = s.window ∧
    s.buildIndex.trace = s.trace ∧ s.buildIndex.params = s.params := by
  rw [s.buildIndex_frame]
  simp

@[simp] theorem State.sendFrameHead_keeps (code : Byte) :
    (s.sendFrameHead code).requests = s.requests ∧ (s.sendFrameHead code).bytePort = s.bytePort ∧
    (s.sendFrameHead code).display = s.display ∧ (s.sendFrameHead code).initialized = s.initialized ∧
    (s.sendFrameHead code).window = s.window ∧ (s.sendFrameHead code).index = s.index ∧
    (s.sendFrameHead code).params = s.params := by
  unfold State.sendFrameHead
  split <;> simp

@[simp] theorem State.sendFrameHead_framer (code : Byte) : (s.sendFrameHead code).framer =
    ⟨s.framer.txn, if s.framer.txn then s.framer.cs else .deasserted, .data⟩ := by
  unfold State.sendFrameHead
  split <;> simp_all

/-- What every record of the script keeps, the script keeps. -/
theorem State.replayScript_induction {P : State → Prop}
    (hrecord : ∀ s op lengthByte, P s → P (s.replayRecord op lengthByte)) (left : Nat) (h : P s) :
    P (State.replayScript left s) := by
  induction left generalizing s with
  | zero => exact h
  | succ left ih =>
    simp only [State.replayScript]
    split
    · exact h
    · split
      · exact h
      · split
        · exact h
        · exact ih _ (hrecord s _ _ h)

theorem State.initRun_framer : s.initRun.framer = s.framer ∨ s.initRun.framer = ⟨false, .deasserted, .data⟩ :=
  State.replayScript_induction (P := fun t => t.framer = s.framer ∨ t.framer = ⟨false, .deasserted, .data⟩)
    (s.setSptr 0) (fun _ _ _ _ => .inr rfl) _ (.inl rfl)

end

/-! ### Who writes what (R34, R36) -/

section
variable {s t : State} {i : Instr}

theorem Completes.display_eq (h : Completes s i t) (hi : ∀ m, i ≠ .setRotation m) : t.display = s.display := by
  cases h with
  | setRotation => exact absurd rfl (hi _)
  | _ => simp [State.drawCell]

theorem Completes.initialized_eq (h : Completes s i t) (hi : i ≠ .beginDriver) : t.initialized = s.initialized := by
  cases h with
  | beginDriver => exact absurd rfl hi
  | _ => simp [State.drawCell]

theorem Completes.window_eq (h : Completes s i t) (hw : ∀ x1 x2 y1 y2, i ≠ .setWindow x1 x2 y1 y2)
    (hf : ∀ c, i ≠ .fillScreen c) (hd : ∀ col row char f b, i ≠ .drawChar col row char f b) : t.window = s.window := by
  cases h with
  | setWindow => exact absurd rfl (hw _ _ _ _)
  | fillScreen => exact absurd rfl (hf _)
  | drawChar => exact absurd rfl (hd _ _ _ _ _)
  | _ => simp

theorem Completes.index_eq (h : Completes s i t) (hi : i ≠ .buildIndex) : t.index = s.index := by
  cases h with
  | buildIndex => exact absurd rfl hi
  | _ => simp [State.drawCell]

theorem Completes.params_ports_eq (h : Completes s i t) :
    t.params = s.params ∧ t.requests = s.requests ∧ t.bytePort = s.bytePort := by
  cases h <;> simp [State.drawCell]

/-- Only the two bracket operations move `TXN`; another may find it false and leave chip-select deasserted. -/
theorem Completes.txn_cs (h : Completes s i t) (hs : i ≠ .startTransaction) (he : i ≠ .endTransaction) :
    t.framer.txn = s.framer.txn ∧
      (t.framer.cs = s.framer.cs ∨ s.framer.txn = false ∧ t.framer.cs = .deasserted) := by
  cases h with
  | startTransaction => exact absurd rfl hs
  | endTransaction => exact absurd rfl he
  | initRun closed | beginDriver closed => rcases s.initRun_framer with hf | hf <;> simp [hf, closed]
  | swreset | slpout | gammaset | dispon | caset | paset | ramwr | madctl => cases hx : s.framer.txn <;> simp [hx]
  | _ => simp_all [State.drawCell]

/-- The selector stands, or the operation performs `WRITE_COMMAND` and leaves it at data (R36, D17). -/
theorem Completes.dc_cases (h : Completes s i t) :
    t.framer.dc = s.framer.dc ∨ performsWriteCommand i = true ∧ t.framer.dc = .data := by
  cases h with
  | initRun | beginDriver => rcases s.initRun_framer with hf | hf <;> simp [hf, performsWriteCommand]
  | _ => simp [State.drawCell, performsWriteCommand, sendsGivenCode]

/-- A pure operation or a read writes holding registers and the response, nothing else. -/
theorem Completes.eq_of_isPure (h : Completes s i t) (hi : isPure i = true) :
    t = { s with hold := t.hold, resp := t.resp } := by
  cases h with
  | toDisplayColor | packBurstWord | blend | lookup | getWidth | getHeight | getRows | getColumns => rfl
  | _ => cases hi

end

/-! ### Events and the lines -/

/-- The lines as the line registers give them. -/
def State.lines (s : State) : Lines := ⟨s.framer.txn, if s.framer.txn then .asserted else .deasserted, s.framer.dc⟩

/-- Words and yields, which may stand wherever a bracket is open with the selector at data, and leave the lines. -/
def Event.isStreamed : Event → Bool
  | .tx8 _ | .tx16 _ | .tx32 _ | .yield => true
  | .busBegin _ _ | .busEnd | .csAssert | .csDeassert | .dcCmd | .dcData | .delay _ => false

/-- Admitted events that leave the lines. -/
theorem replayFrom_of_stays {l : Lines} {es : List Event} (h : ∀ e ∈ es, l.admits e = true ∧ l.after e = l) :
    replayFrom l es = some l := by
  induction es with
  | nil => rfl
  | cons e rest ih =>
    obtain ⟨⟨hadmits, hafter⟩, hrest⟩ := List.forall_mem_cons.1 h
    rw [replayFrom, if_pos hadmits, hafter]
    exact ih hrest

theorem bytesFrom_eq_nil {l : Lines} {es : List Event} (h : ∀ e ∈ es, e.wireBytes = []) : bytesFrom l es = [] := by
  induction es generalizing l with
  | nil => rfl
  | cons e rest ih =>
    obtain ⟨he, hrest⟩ := List.forall_mem_cons.1 h
    simp [bytesFrom, he, ih hrest]

theorem settle_delays (p : Params) (op : Byte) (flag : Bool) : ∀ e ∈ settle p op flag, ∃ ms, e = .delay ms := by
  unfold settle
  split
  · simp
  · split <;> simp

theorem fillEvents_streamed (w : Word) (k : Nat) : ∀ e ∈ fillEvents w k, e.isStreamed = true := by
  intro e he
  obtain ⟨pair, -, he⟩ := List.mem_flatMap.1 he
  rcases List.mem_cons.1 he with rfl | he
  · rfl
  · split at he
    · rw [List.mem_singleton.1 he]
      rfl
    · cases he

/-! ### Waiting, and a record's number -/

theorem step_of_fetch_idle {s : State} (h : s.fetch = .idle) : step s = .next s := by
  simp [step, h]

theorem recordByte_toNat (i : Fin 95) : (recordByte i).toNat = i.val := by
  simp [recordByte, show i.val < 256 by omega]

/-! ### Two runs of one operation -/

/-- Two outcomes of one kind: next states in `R`, or the same fault or refusal. -/
inductive Outcome.Related (R : State → State → Prop) : Outcome → Outcome → Prop
  | next {t u : State} (h : R t u) : Outcome.Related R (.next t) (.next u)
  | fault (r : Fault) : Outcome.Related R (.fault r) (.fault r)
  | refused (r : Refusal) : Outcome.Related R (.refused r) (.refused r)

theorem Outcome.Related.endings {R : State → State → Prop} {o o' : Outcome} (h : Outcome.Related R o o') :
    (∀ t, o = .next t → ∃ u, o' = .next u ∧ R t u) ∧ (∀ r, o = .refused r → o' = .refused r) ∧
      ∀ r, o = .fault r → o' = .fault r := by
  cases h with
  | next h => exact ⟨fun _ ht => ⟨_, rfl, by cases ht; exact h⟩, nofun, nofun⟩
  | fault | refused => exact ⟨fun _ ht => (nomatch ht), fun _ => id, fun _ => id⟩

/-- Two states agree on every register that an operation may read before it writes it. -/
structure SameRead (s u : State) : Prop where
  framer : u.framer = s.framer
  display : u.display = s.display
  window : u.window = s.window
  index : u.index = s.index
  params : u.params = s.params

/-- Related states agree on what operations read, and every update that an operation makes keeps them related. -/
structure KeptByUpdates (R : State → State → Prop) : Prop where
  reads {s u : State} : R s u → SameRead s u
  emits {s u : State} (es : List Event) : R s u → R (s.emits es) (u.emits es)
  resp {s u : State} (v : Option Word) : R s u → R { s with resp := v } { u with resp := v }
  framer {s u : State} (v : Framer) : R s u → R { s with framer := v } { u with framer := v }
  display {s u : State} (v : DisplayState) : R s u → R { s with display := v } { u with display := v }
  initialized {s u : State} (v : Bool) : R s u → R { s with initialized := v } { u with initialized := v }
  window {s u : State} (v : AddressWindow) : R s u → R { s with window := v } { u with window := v }
  index {s u : State} (v : Memory) : R s u → R { s with index := v } { u with index := v }
  memo {s u : State} (f : Memo → Memo) : R s u → R { s with memo := f s.memo } { u with memo := f u.memo }
  hold {s u : State} (f : Holding → Holding) : R s u → R { s with hold := f s.hold } { u with hold := f u.hold }
  count {s u : State} (f : Counters → Counters) :
    R s u → R { s with count := f s.count } { u with count := f u.count }

/-- The colours a glyph is streamed in are the same. -/
structure SameColors (a b : Holding) : Prop where
  fore : b.fore = a.fore
  back : b.back = a.back
  border : b.border = a.border

/-- The memo once a pixel of a tone is shown: kept if it has the tone, else written with the tone's blend (R168). -/
def State.memoShown (s : State) (tone : Nibble) : Memo :=
  if s.memo.has tone then s.memo else ⟨true, tone, blend s.params tone s.hold.fore s.hold.back⟩

/-- Either way the pixel has the colour the memo holds afterwards. -/
theorem State.dataPixel_eq (s : State) (j : Fin 4) : s.dataPixel j = State.putPixel { s with
    hold := { s.hold with tone := toneOf s.hold.rowWord j }
    count := { s.count with col := j.castSucc }
    memo := s.memoShown (toneOf s.hold.rowWord j) } (s.memoShown (toneOf s.hold.rowWord j)).color := by
  unfold State.dataPixel State.memoShown
  dsimp only
  split <;> rfl

/-- Two memos that are the same, or both invalid. -/
def SameMemo (a b : Memo) : Prop := b = a ∨ b.valid = false ∧ a.valid = false

namespace KeptByUpdates

variable {R : State → State → Prop} (hR : KeptByUpdates R) {s u : State} {k k' : Outcome}
include hR

theorem inBracket (h : R s u) (hk : Outcome.Related R k k') : Outcome.Related R (s.inBracket k) (u.inBracket k') := by
  unfold State.inBracket
  rw [(hR.reads h).framer]
  split
  · exact hk
  · exact .refused _

theorem outOfBracket (h : R s u) (hk : Outcome.Related R k k') :
    Outcome.Related R (s.outOfBracket k) (u.outOfBracket k') := by
  unfold State.outOfBracket
  rw [(hR.reads h).framer]
  split
  · exact .refused _
  · exact hk

theorem inDataMode (h : R s u) (hk : Outcome.Related R k k') :
    Outcome.Related R (s.inDataMode k) (u.inDataMode k') := by
  refine hR.inBracket h ?_
  rw [(hR.reads h).framer]
  split
  · exact hk
  · exact .refused _

omit hR in
theorem evenCount (n : Word) (hk : Outcome.Related R k k') :
    Outcome.Related R (Machine.evenCount n k) (Machine.evenCount n k') := by
  unfold Machine.evenCount
  split
  · exact .refused _
  · exact hk

theorem finish (h : R s u) : R s.finish u.finish := hR.resp none h

theorem respond {n : Nat} (v : BitVec n) (h : R s u) : R (s.respond v) (u.respond v) := hR.resp _ h

theorem startTransaction (h : R s u) : R s.startTransaction u.startTransaction := by
  unfold State.startTransaction
  rw [(hR.reads h).framer, (hR.reads h).params]
  exact hR.framer _ (hR.emits _ h)

theorem endTransaction (h : R s u) : R s.endTransaction u.endTransaction := by
  unfold State.endTransaction
  rw [(hR.reads h).framer]
  exact hR.framer _ (hR.emits _ h)

theorem writeCommand (code : Byte) (h : R s u) : R (s.writeCommand code) (u.writeCommand code) := by
  unfold State.writeCommand
  rw [(hR.reads h).framer]
  exact hR.framer _ (hR.emits _ h)

theorem sendCommand (code : Byte) (payload : List Byte) (h : R s u) :
    R (s.sendCommand code payload) (u.sendCommand code payload) :=
  hR.endTransaction (hR.emits _ (hR.writeCommand code (hR.startTransaction h)))

theorem sendFrameHead (code : Byte) (h : R s u) : R (s.sendFrameHead code) (u.sendFrameHead code) := by
  unfold State.sendFrameHead
  rw [(hR.reads h).framer]
  split
  · exact hR.writeCommand code h
  · exact hR.sendCommand code [] h

theorem programColumns (x1 x2 : Half) (h : R s u) : R (s.programColumns x1 x2) (u.programColumns x1 x2) := by
  unfold State.programColumns
  rw [(hR.reads h).window, (hR.reads h).params]
  split
  · exact h
  · exact hR.window _ (hR.emits _ (hR.writeCommand _ h))

theorem programRows (y1 y2 : Half) (h : R s u) : R (s.programRows y1 y2) (u.programRows y1 y2) := by
  unfold State.programRows
  rw [(hR.reads h).window, (hR.reads h).params]
  split
  · exact h
  · exact hR.window _ (hR.emits _ (hR.writeCommand _ h))

theorem setWindow (x1 x2 y1 y2 : Half) (h : R s u) : R (s.setWindow x1 x2 y1 y2) (u.setWindow x1 x2 y1 y2) := by
  unfold State.setWindow
  rw [(hR.reads h).params]
  exact hR.writeCommand _ (hR.programRows y1 y2 (hR.programColumns x1 x2 h))

theorem streamFill (c16 : Color16) (n : Word) (h : R s u) : R (s.streamFill c16 n) (u.streamFill c16 n) :=
  hR.count (fun c => { c with pair := n >>> 1 }) (hR.hold (fun v => { v with fill := c16 }) (hR.emits _ h))

/-! The init script: `SPTR` is written before it is read. -/

theorem setSptr (p : Nat) (h : R s u) : R (s.setSptr p) (u.setSptr p) := hR.count (fun c => { c with sptr := p }) h

theorem replayRecord (op lengthByte : Byte) (h : R s u) (hp : u.count.sptr = s.count.sptr) :
    R (s.replayRecord op lengthByte) (u.replayRecord op lengthByte) := by
  unfold State.replayRecord
  rw [hp, (hR.reads h).params]
  exact hR.setSptr _ (hR.emits _ (hR.sendCommand _ _ h))

theorem replayScript (left : Nat) (h : R s u) (hp : u.count.sptr = s.count.sptr) :
    R (State.replayScript left s) (State.replayScript left u) := by
  induction left generalizing s u with
  | zero => exact h
  | succ left ih =>
    simp only [State.replayScript, hp, (hR.reads h).params]
    split
    · exact h
    · split
      · exact h
      · split
        · exact h
        · exact ih (hR.replayRecord _ _ h hp) (by simp [State.replayRecord, hp])

theorem initRun (h : R s u) : R s.initRun u.initRun := by
  unfold State.initRun
  rw [(hR.reads h).params]
  exact hR.replayScript _ (hR.setSptr 0 h) rfl

/-! The FontIndex. -/

theorem indexRead_eq (h : R s u) (c : Byte) : u.indexRead c = s.indexRead c := by
  rw [State.indexRead, State.indexRead, (hR.reads h).params, (hR.reads h).index]

theorem glyphRecord_eq (h : R s u) (c : Byte) : u.glyphRecord c = s.glyphRecord c := by
  rw [State.glyphRecord, State.glyphRecord, (hR.reads h).params, (hR.reads h).index]

theorem indexWrite (key v : Byte) (h : R s u) : R (s.indexWrite key v) (u.indexWrite key v) := by
  have hwrite : Memory.write (indexDefault u.params.tables) u.index key.toNat v
      = Memory.write (indexDefault s.params.tables) s.index key.toNat v := by rw [(hR.reads h).params, (hR.reads h).index]
  unfold State.indexWrite
  rw [hwrite]
  exact hR.index _ h

theorem zeroIndex (h : R s u) : R s.zeroIndex u.zeroIndex :=
  List.foldl_rel h fun _ _ _ _ h => hR.indexWrite _ _ h

theorem scanRecords (is : List (Fin 95)) (h : R s u) : R (State.scanRecords is s) (State.scanRecords is u) := by
  induction is generalizing s u with
  | nil => exact h
  | cons i rest ih =>
    rw [State.scanRecords_cons, State.scanRecords_cons, (hR.reads h).params]
    have hnext := hR.count (fun c => { c with scan := i })
      (hR.indexWrite (lowByte (fontCode s.params.tables i)) (recordByte i) h)
    split
    · exact hnext
    · exact ih hnext

theorem buildIndex (h : R s u) : R s.buildIndex u.buildIndex := hR.scanRecords _ (hR.zeroIndex h)

/-! Glyph streaming: the operands are latched first, and each data row clears the memo (R168, R169). -/

theorem borderPixel (col : Fin 5) (h : R s u) (hc : SameColors s.hold u.hold) :
    R (s.borderPixel col) (u.borderPixel col) := by
  unfold State.borderPixel
  rw [hc.border]
  exact hR.emits _ (hR.count (fun c => { c with col := col }) h)

theorem borderRow (row : Fin 10) (h : R s u) (hc : SameColors s.hold u.hold) :
    R (s.borderRow row) (u.borderRow row) ∧ SameColors (s.borderRow row).hold (u.borderRow row).hold :=
  List.foldl_rel (r := fun s u => R s u ∧ SameColors s.hold u.hold)
    ⟨hR.count (fun c => { c with row := row }) h, hc⟩ fun col _ _ _ ⟨h, hc⟩ => ⟨hR.borderPixel col h hc, hc⟩

theorem memoShown_eq (h : R s u) (hc : SameColors s.hold u.hold) (hm : SameMemo s.memo u.memo) (tone : Nibble) :
    u.memoShown tone = s.memoShown tone := by
  unfold State.memoShown
  rw [hc.fore, hc.back, (hR.reads h).params]
  rcases hm with hm | ⟨hu, hs⟩
  · rw [hm]
  · simp [Memo.has, hu, hs]

theorem dataPixel (j : Fin 4) (h : R s u) (hc : SameColors s.hold u.hold) (hw : u.hold.rowWord = s.hold.rowWord)
    (hm : SameMemo s.memo u.memo) : R (s.dataPixel j) (u.dataPixel j) ∧
      SameColors (s.dataPixel j).hold (u.dataPixel j).hold ∧
      (u.dataPixel j).hold.rowWord = (s.dataPixel j).hold.rowWord ∧
      SameMemo (s.dataPixel j).memo (u.dataPixel j).memo := by
  have hshown := hR.memoShown_eq h hc hm (toneOf s.hold.rowWord j)
  rw [s.dataPixel_eq, u.dataPixel_eq, hw, hshown]
  exact ⟨hR.emits _ (hR.memo (fun _ => s.memoShown (toneOf s.hold.rowWord j))
    (hR.count (fun c => { c with col := j.castSucc })
      (hR.hold (fun v => { v with tone := toneOf s.hold.rowWord j }) h))), ⟨hc.fore, hc.back, hc.border⟩, hw, .inl rfl⟩

theorem dataRow (word : Half) (h : R s u) (hc : SameColors s.hold u.hold) :
    R (s.dataRow word) (u.dataRow word) ∧ SameColors (s.dataRow word).hold (u.dataRow word).hold := by
  have hpixels := List.foldl_rel (l := ([0, 1, 2, 3] : List (Fin 4))) (f := State.dataPixel) (g := State.dataPixel)
    (r := fun s u => R s u ∧ SameColors s.hold u.hold ∧ u.hold.rowWord = s.hold.rowWord ∧ SameMemo s.memo u.memo)
    ⟨hR.memo (fun m => { m with valid := false }) (hR.hold (fun v => { v with rowWord := word }) h),
      ⟨hc.fore, hc.back, hc.border⟩, rfl, .inr ⟨rfl, rfl⟩⟩
    fun j _ _ _ ⟨h, hc, hw, hm⟩ => hR.dataPixel j h hc hw hm
  obtain ⟨h, hc, -, -⟩ := hpixels
  exact ⟨hR.borderPixel 4 h hc, hc⟩

theorem glyphDataRow (g : Fin 95) (k : Fin 9) (h : R s u) (hc : SameColors s.hold u.hold) :
    R (s.glyphDataRow g k) (u.glyphDataRow g k) ∧
      SameColors (s.glyphDataRow g k).hold (u.glyphDataRow g k).hold := by
  have hword : glyphRow u.params.tables g k = glyphRow s.params.tables g k := by rw [(hR.reads h).params]
  unfold State.glyphDataRow
  rw [hword]
  exact hR.dataRow _ (hR.count (fun c => { c with row := k.castSucc }) h) hc

theorem latchGlyph (g : Fin 95) (char : Byte) (fore back : Color16) (h : R s u) :
    R (s.latchGlyph g char fore back) (u.latchGlyph g char fore back) ∧
      SameColors (s.latchGlyph g char fore back).hold (u.latchGlyph g char fore back).hold := by
  have hborder : blend u.params 15 fore back = blend s.params 15 fore back := by rw [(hR.reads h).params]
  unfold State.latchGlyph
  rw [hborder]
  exact ⟨hR.count (fun c => { c with row := 0, col := 0 }) (hR.hold (fun v => { v with
    fore := fore, back := back, char := char, glyph := recordByte g, border := blend s.params 15 fore back }) h),
    rfl, rfl, rfl⟩

theorem streamGlyph (g : Fin 95) (char : Byte) (fore back : Color16) (h : R s u) :
    R (s.streamGlyph g char fore back) (u.streamGlyph g char fore back) := by
  obtain ⟨h, hc⟩ := hR.latchGlyph g char fore back h
  obtain ⟨h, hc⟩ := hR.borderRow 0 h hc
  have hrows := List.foldl_rel (l := ([1, 2, 3, 4, 5, 6, 7, 8] : List (Fin 9))) (f := State.glyphDataRow g)
    (g := State.glyphDataRow g) (r := fun s u => R s u ∧ SameColors s.hold u.hold) ⟨h, hc⟩
    fun k _ _ _ ⟨h, hc⟩ => hR.glyphDataRow g k h hc
  obtain ⟨h, hc⟩ := hrows
  obtain ⟨h, -⟩ := hR.borderRow 9 h hc
  exact h

theorem drawCell (g : Fin 95) (col row char : Byte) (fore12 back12 : Color12) (h : R s u) :
    R (s.drawCell g col row char fore12 back12) (u.drawCell g col row char fore12 back12) := by
  unfold State.drawCell
  rw [(hR.reads h).params]
  exact hR.endTransaction (hR.streamGlyph _ _ _ _ (hR.setWindow _ _ _ _ (hR.startTransaction h)))

/-! Operations. -/

theorem execStreamGlyph (char : Byte) (fore back : Color16) (h : R s u) :
    Outcome.Related R (Machine.execStreamGlyph char fore back s) (Machine.execStreamGlyph char fore back u) := by
  refine hR.inDataMode h ?_
  rw [hR.glyphRecord_eq h]
  split
  · exact .next (hR.finish (hR.streamGlyph _ _ _ _ h))
  · exact .fault _

theorem execDrawChar (col row char : Byte) (fore12 back12 : Color12) (h : R s u) :
    Outcome.Related R (Machine.execDrawChar col row char fore12 back12 s)
      (Machine.execDrawChar col row char fore12 back12 u) := by
  unfold Machine.execDrawChar State.clips
  rw [(hR.reads h).display, hR.glyphRecord_eq h]
  split
  · exact .next (hR.finish h)
  · refine hR.outOfBracket h ?_
    split
    · exact .next (hR.finish (hR.drawCell _ _ _ _ _ _ h))
    · exact .fault _

theorem execFillScreen (c12 : Color12) (h : R s u) :
    Outcome.Related R (Machine.execFillScreen c12 s) (Machine.execFillScreen c12 u) := by
  unfold Machine.execFillScreen
  rw [(hR.reads h).display, (hR.reads h).params]
  exact hR.outOfBracket h (evenCount _ (.next (hR.finish (hR.endTransaction (hR.streamFill _ _
    (hR.setWindow _ _ _ _ (hR.startTransaction h)))))))

theorem execSetRotation (m : Byte) (h : R s u) :
    Outcome.Related R (Machine.execSetRotation m s) (Machine.execSetRotation m u) := by
  unfold Machine.execSetRotation
  rw [(hR.reads h).params]
  exact hR.outOfBracket h (.next (hR.finish (hR.sendCommand _ _ (hR.display _ h))))

theorem execBlend (tone : Nibble) (fore back : Color16) (h : R s u) :
    Outcome.Related R (Machine.execBlend tone fore back s) (Machine.execBlend tone fore back u) := by
  have hlatch := hR.hold (fun v => { v with fore := fore, back := back }) h
  have hblend : blend u.params tone fore back = blend s.params tone fore back := by rw [(hR.reads h).params]
  rw [Machine.execBlend, Machine.execBlend, hblend]
  exact .next (hR.respond _ hlatch)

theorem execLookup (code : Byte) (h : R s u) :
    Outcome.Related R (Machine.execLookup code s) (Machine.execLookup code u) := by
  have hlatch := hR.hold (fun v => { v with char := code, glyph := s.indexRead code }) h
  rw [Machine.execLookup, Machine.execLookup, hR.indexRead_eq h]
  exact .next (hR.respond _ hlatch)

/-- An operation carried out in related states ends the same way, in related states. -/
theorem exec (i : Instr) (h : R s u) : Outcome.Related R (Machine.exec i s) (Machine.exec i u) := by
  have hp := (hR.reads h).params
  have hd := (hR.reads h).display
  cases i with
  | startTransaction => exact hR.outOfBracket h (.next (hR.finish (hR.startTransaction h)))
  | endTransaction => exact hR.inBracket h (.next (hR.finish (hR.endTransaction h)))
  | sendCommand => exact hR.outOfBracket h (.next (hR.finish (hR.sendCommand _ _ h)))
  | writeCommand => exact hR.inBracket h (.next (hR.finish (hR.writeCommand _ h)))
  | writeData8 | writeData16 | writeData32 => exact hR.inDataMode h (.next (hR.finish (hR.emits _ h)))
  | toDisplayColor => exact .next (hp ▸ hR.respond _ h)
  | packBurstWord => exact .next (hR.respond _ h)
  | blend => exact hR.execBlend _ _ _ h
  | buildIndex => exact .next (hR.finish (hR.buildIndex h))
  | lookup => exact hR.execLookup _ h
  | streamGlyph => exact hR.execStreamGlyph _ _ _ h
  | streamFill => exact hR.inDataMode h (evenCount _ (.next (hR.finish (hR.streamFill _ _ h))))
  | setWindow => exact hR.inBracket h (.next (hR.finish (hR.setWindow _ _ _ _ h)))
  | initRun => exact hR.outOfBracket h (.next (hR.finish (hR.initRun h)))
  | beginDriver => exact hR.outOfBracket h (.next (hR.finish (hR.initialized true (hR.initRun h))))
  | setRotation => exact hR.execSetRotation _ h
  | fillScreen => exact hR.execFillScreen _ h
  | drawChar => exact hR.execDrawChar _ _ _ _ _ h
  | getWidth | getHeight | getRows | getColumns => exact .next (hd ▸ hR.respond _ h)
  | swreset | slpout | gammaset | dispon | caset | paset | ramwr | madctl =>
    exact .next (hp ▸ hR.finish (hR.sendFrameHead _ h))

end KeptByUpdates

/-! ### Another trace, and other transient registers -/

/-- `t` has appended events to the trace `base`, and `u` is `t` with the same events appended to `w`. -/
def SameAppended (base w : List Event) (t u : State) : Prop :=
  ∃ es, t.trace = base ++ es ∧ u = { t with trace := w ++ es }

theorem keptByUpdates_sameAppended (base w : List Event) : KeptByUpdates (SameAppended base w) := by
  constructor
  case reads =>
    rintro t _ ⟨_, -, rfl⟩
    exact ⟨rfl, rfl, rfl, rfl, rfl⟩
  case emits =>
    rintro t _ new ⟨es, ht, rfl⟩
    exact ⟨es ++ new, by simp [ht], by simp [State.emits]⟩
  all_goals
    rintro t _ v ⟨es, ht, rfl⟩
    exact ⟨es, ht, rfl⟩

/-- `u` is `t` but for the holding registers, the memo and the counters. -/
def SameLasting (t u : State) : Prop :=
  ∃ hold memo count, u = { t with hold := hold, memo := memo, count := count }

theorem keptByUpdates_sameLasting : KeptByUpdates SameLasting := by
  constructor
  case reads =>
    rintro t _ ⟨_, _, _, rfl⟩
    exact ⟨rfl, rfl, rfl, rfl, rfl⟩
  all_goals
    rintro t _ v ⟨hold, memo, count, rfl⟩
    exact ⟨_, _, _, rfl⟩

end Sys2Proof.Machine

namespace Sys2Proof.Safety

open Sys2Proof.Machine

/-! ### The lines through an operation -/

section
variable {s t : State}

theorem LinesAgree.commandFirst (h : LinesAgree s) : CommandFirst s := h.2.2

theorem LinesAgree.cs_of_closed (h : LinesAgree s) (closed : s.framer.txn = false) : s.framer.cs = .deasserted := by
  obtain ⟨-, hcs, -⟩ := h
  simpa [closed] using hcs

theorem LinesAgree.cs_of_opened (h : LinesAgree s) (opened : s.framer.txn = true) : s.framer.cs = .asserted := by
  obtain ⟨-, hcs, -⟩ := h
  simpa [opened] using hcs

theorem LinesAgree.bytes_append (h : LinesAgree s) (es : List Event) :
    bytes (s.trace ++ es) = bytes s.trace ++ bytesFrom s.lines es := by
  obtain ⟨hreplay, -, -⟩ := h
  rw [bytes, bytesFrom_append, ← replayFrom_some hreplay]
  rfl

theorem LinesAgree.replay_append (h : LinesAgree s) (es : List Event) :
    replay (s.trace ++ es) = replayFrom s.lines es := by
  obtain ⟨hreplay, -, -⟩ := h
  rw [replay, replayFrom_append, ← replay, hreplay]
  rfl

/-- Events without a byte that leave the selector keep "no byte before a command byte". -/
theorem LinesAgree.append_silent {es : List Event} (h : LinesAgree s) (ht : t.trace = s.trace ++ es)
    (hreplay : replayFrom s.lines es = some t.lines) (hcs : t.framer.cs = t.lines.cs)
    (hdc : t.framer.dc = s.framer.dc) (hsilent : bytesFrom s.lines es = []) : LinesAgree t := by
  have hbytes := h.bytes_append es
  refine ⟨by rw [ht, h.replay_append, hreplay]; rfl, hcs, ?_⟩
  rw [CommandFirst, ht, hbytes, hsilent, List.append_nil, hdc]
  exact h.commandFirst

/-- Events after which the selector is known keep it when they start with a command byte, or the selector was known. -/
theorem LinesAgree.append_known {es : List Event} (h : LinesAgree s) (ht : t.trace = s.trace ++ es)
    (hreplay : replayFrom s.lines es = some t.lines) (hcs : t.framer.cs = t.lines.cs) (hdc : t.framer.dc ≠ .unknown)
    (hnew : s.framer.dc = .unknown → (bytesFrom s.lines es).head?.map Prod.fst = some .cmd) : LinesAgree t := by
  obtain ⟨hnone, hfirst⟩ := h.commandFirst
  refine ⟨by rw [ht, h.replay_append, hreplay]; rfl, hcs, fun h' => absurd h' hdc, fun _ => ?_⟩
  rw [ht, h.bytes_append]
  by_cases hs : s.framer.dc = .unknown
  · rw [hnone hs, List.nil_append]
    exact hnew hs
  · rw [List.head?_append, Option.map_or, hfirst hs]
    rfl

/-- The line registers agree with the trace, and no bracket is open. -/
def Closed (s : State) : Prop := LinesAgree s ∧ s.framer.txn = false

/-- They agree with it, and a bracket is open. -/
def Opened (s : State) : Prop := LinesAgree s ∧ s.framer.txn = true

/-- They agree with it, a bracket is open, and the selector is at data: words may be sent. -/
def Sending (s : State) : Prop := Opened s ∧ s.framer.dc = .data

theorem Closed.lines (h : Closed s) : LinesAgree s := h.1
theorem Opened.lines (h : Opened s) : LinesAgree s := h.1
theorem Sending.opened (h : Sending s) : Opened s := h.1
theorem Sending.lines (h : Sending s) : LinesAgree s := h.opened.lines

theorem Opened.cs (h : Opened s) : s.framer.cs = .asserted := h.lines.cs_of_opened h.2

theorem Closed.cs (h : Closed s) : s.framer.cs = .deasserted := h.lines.cs_of_closed h.2

/-! What the framer's steps and the events of the other operations do to the lines. -/

theorem Closed.startTransaction (h : Closed s) : Opened s.startTransaction := by
  obtain ⟨hl, htxn⟩ := h
  exact ⟨hl.append_silent s.startTransaction_trace (by simp [State.lines, htxn, replayFrom, Lines.admits, Lines.after])
    rfl rfl (by simp [State.lines, bytesFrom, Event.wireBytes]), rfl⟩

theorem Opened.endTransaction (h : Opened s) : Closed s.endTransaction := by
  obtain ⟨hl, htxn⟩ := h
  exact ⟨hl.append_silent s.endTransaction_trace (by simp [State.lines, htxn, replayFrom, Lines.admits, Lines.after])
    rfl rfl (by simp [State.lines, bytesFrom, Event.wireBytes]), rfl⟩

theorem Opened.writeCommand (h : Opened s) (code : Byte) : Sending (s.writeCommand code) := by
  have hcs := h.cs
  obtain ⟨hl, htxn⟩ := h
  refine ⟨⟨hl.append_known (s.writeCommand_trace code) ?_ ?_ (by simp) fun _ => ?_, by simpa using htxn⟩, rfl⟩
  · simp [State.lines, htxn, replayFrom, Lines.admits, Lines.after]
  · simpa [State.lines, htxn] using hcs
  · simp [State.lines, htxn, bytesFrom, Lines.after, Event.wireBytes]

theorem Sending.emits (h : Sending s) {es : List Event} (hes : ∀ e ∈ es, Event.isStreamed e = true) :
    Sending (s.emits es) := by
  have hcs := h.opened.cs
  obtain ⟨⟨hl, htxn⟩, hdc⟩ := h
  refine ⟨⟨hl.append_known (s.emits_trace es) (replayFrom_of_stays fun e he => ?_) ?_ ?_ fun hu => ?_, htxn⟩, hdc⟩
  · have := hes e he
    cases e <;> simp_all [State.lines, Event.isStreamed, Lines.admits, Lines.after]
  · simpa [State.lines, htxn] using hcs
  · simp [hdc]
  · simp [hdc] at hu

theorem Closed.delays (h : Closed s) {es : List Event} (hes : ∀ e ∈ es, ∃ ms, e = .delay ms) : Closed (s.emits es) := by
  have hcs := h.cs
  obtain ⟨hl, htxn⟩ := h
  refine ⟨hl.append_silent (s.emits_trace es) (replayFrom_of_stays fun e he => ?_) ?_ rfl ?_, htxn⟩
  · obtain ⟨ms, rfl⟩ := hes e he
    simp [State.lines, htxn, Lines.admits, Lines.after]
  · simpa [State.lines, htxn] using hcs
  · refine bytesFrom_eq_nil fun e he => ?_
    obtain ⟨ms, rfl⟩ := hes e he
    rfl

theorem Closed.sendCommand (h : Closed s) (code : Byte) (payload : List Byte) : Closed (s.sendCommand code payload) :=
  ((h.startTransaction.writeCommand code).emits (by simp [Event.isStreamed])).opened.endTransaction

theorem Opened.sendPair (h : Opened s) (code : Byte) (first last : Half) : Opened (s.sendPair code first last) :=
  ((h.writeCommand code).emits (by simp [Event.isStreamed])).opened

theorem Opened.programColumns (h : Opened s) (x1 x2 : Half) : Opened (s.programColumns x1 x2) := by
  rcases s.programColumns_cases x1 x2 with ⟨-, hc⟩ | ⟨-, hc⟩ <;> rw [hc]
  · exact h
  · exact h.sendPair _ x1 x2

theorem Opened.programRows (h : Opened s) (y1 y2 : Half) : Opened (s.programRows y1 y2) := by
  rcases s.programRows_cases y1 y2 with ⟨-, hr⟩ | ⟨-, hr⟩ <;> rw [hr]
  · exact h
  · exact h.sendPair _ y1 y2

theorem Opened.setWindow (h : Opened s) (x1 x2 y1 y2 : Half) : Sending (s.setWindow x1 x2 y1 y2) :=
  ((h.programColumns x1 x2).programRows y1 y2).writeCommand _

theorem Closed.setSptr (h : Closed s) (p : Nat) : Closed (s.setSptr p) := h

theorem Closed.replayRecord (h : Closed s) (op lengthByte : Byte) : Closed (s.replayRecord op lengthByte) :=
  ((h.sendCommand _ _).delays (settle_delays _ _ _)).setSptr _

theorem Closed.initRun (h : Closed s) : Closed s.initRun :=
  State.replayScript_induction (P := Closed) _ (fun _ op lengthByte h => h.replayRecord op lengthByte) _ (h.setSptr 0)

theorem Sending.emit (h : Sending s) {e : Event} (he : e.isStreamed = true) : Sending (s.emit e) :=
  h.emits (es := [e]) (by simpa using he)

theorem Sending.putPixel (h : Sending s) (c : Color16) : Sending (s.putPixel c) :=
  h.emit rfl

theorem Sending.dataPixel (h : Sending s) (j : Fin 4) : Sending (s.dataPixel j) := by
  unfold State.dataPixel
  dsimp only
  split <;> exact Sending.putPixel (by exact h) _

theorem Sending.borderPixel (h : Sending s) (col : Fin 5) : Sending (s.borderPixel col) :=
  Sending.putPixel (s := { s with count := { s.count with col := col } }) h _

theorem Sending.borderRow (h : Sending s) (row : Fin 10) : Sending (s.borderRow row) :=
  List.foldlRecOn _ _ (motive := Sending) h fun _ h col _ => h.borderPixel col

theorem Sending.dataRow (h : Sending s) (word : Half) : Sending (s.dataRow word) := by
  unfold State.dataRow
  exact Sending.borderPixel (List.foldlRecOn _ _ (motive := Sending) (by exact h) fun _ h j _ => h.dataPixel j) 4

theorem Sending.glyphDataRow (h : Sending s) (g : Fin 95) (k : Fin 9) : Sending (s.glyphDataRow g k) :=
  Sending.dataRow (s := { s with count := { s.count with row := k.castSucc } }) h _

theorem Sending.streamGlyph (h : Sending s) (g : Fin 95) (char : Byte) (fore back : Color16) :
    Sending (s.streamGlyph g char fore back) :=
  Sending.borderRow (List.foldlRecOn _ _ (motive := Sending)
    (Sending.borderRow (s := s.latchGlyph g char fore back) h 0) fun _ h k _ => h.glyphDataRow g k) 9

theorem Sending.streamFill (h : Sending s) (c16 : Color16) (n : Word) : Sending (s.streamFill c16 n) :=
  h.emits (fillEvents_streamed _ _)

theorem Closed.drawCell (h : Closed s) (g : Fin 95) (col row char : Byte) (fore12 back12 : Color12) :
    Closed (s.drawCell g col row char fore12 back12) := by
  unfold State.drawCell
  exact ((h.startTransaction.setWindow _ _ _ _).streamGlyph _ _ _ _).opened.endTransaction

theorem LinesAgree.sendFrameHead (h : LinesAgree s) (code : Byte) : LinesAgree (s.sendFrameHead code) := by
  unfold State.sendFrameHead
  split
  · exact (Opened.writeCommand ⟨h, ‹_›⟩ code).lines
  · exact (Closed.sendCommand ⟨h, Bool.eq_false_iff.2 ‹_›⟩ code []).lines

theorem LinesAgree.finish (h : LinesAgree s) : LinesAgree s.finish := h

theorem LinesAgree.markInitialized (h : LinesAgree s) : LinesAgree s.markInitialized := h

theorem LinesAgree.buildIndex (h : LinesAgree s) : LinesAgree s.buildIndex := by
  simpa [LinesAgree, CommandFirst] using h

/-- The line registers follow the trace through every operation. -/
theorem LinesAgree.of_completes {i : Instr} (h : LinesAgree s) (hc : Completes s i t) : LinesAgree t := by
  cases hc with
  | startTransaction closed => exact (Closed.startTransaction ⟨h, closed⟩).lines.finish
  | endTransaction opened => exact (Opened.endTransaction ⟨h, opened⟩).lines.finish
  | sendCommand closed => exact (Closed.sendCommand ⟨h, closed⟩ _ _).lines.finish
  | writeCommand opened => exact (Opened.writeCommand ⟨h, opened⟩ _).lines.finish
  | writeData8 opened data | writeData16 opened data | writeData32 opened data =>
    exact (Sending.emit ⟨⟨h, opened⟩, data⟩ rfl).lines.finish
  | streamGlyph opened data => exact (Sending.streamGlyph ⟨⟨h, opened⟩, data⟩ _ _ _ _).lines.finish
  | streamFill opened data => exact (Sending.streamFill ⟨⟨h, opened⟩, data⟩ _ _).lines.finish
  | setWindow opened => exact (Opened.setWindow ⟨h, opened⟩ _ _ _ _).lines.finish
  | initRun closed => exact (Closed.initRun ⟨h, closed⟩).lines.finish
  | beginDriver closed => exact (Closed.initRun ⟨h, closed⟩).lines.markInitialized.finish
  | setRotation closed => exact (Closed.sendCommand (s := s.rotate _) ⟨h, closed⟩ _ _).lines.finish
  | fillScreen closed =>
    exact (((Closed.startTransaction ⟨h, closed⟩).setWindow _ _ _ _).streamFill _ _).opened.endTransaction.lines.finish
  | drawChar closed => exact (Closed.drawCell ⟨h, closed⟩ _ _ _ _ _ _).lines.finish
  | swreset | slpout | gammaset | dispon | caset | paset | ramwr | madctl => exact (h.sendFrameHead _).finish
  | buildIndex => exact h.buildIndex.finish
  | toDisplayColor | packBurstWord | blend | lookup | drawCharClipped | getWidth | getHeight | getRows | getColumns =>
    exact h

/-! ### The other parts of the invariant -/

theorem SelectorAtRest.of_completes {i : Instr} (h : SelectorAtRest s) (hc : Completes s i t) : SelectorAtRest t := by
  rcases hc.dc_cases with hdc | ⟨-, hdc⟩
  · rw [SelectorAtRest, hdc]
    exact h
  · simp [SelectorAtRest, hdc]

@[simp] theorem displayFor_rotation (r : BitVec 2) : (displayFor r).rotation = r := rfl

theorem DisplayAgrees.of_completes {i : Instr} (h : DisplayAgrees s) (hc : Completes s i t) : DisplayAgrees t := by
  have stands : (∀ m, i ≠ .setRotation m) → DisplayAgrees t := fun hi => by
    rw [DisplayAgrees, hc.display_eq hi]
    exact h
  cases hc with
  | setRotation => simp [DisplayAgrees]
  | _ => exact stands nofun

theorem IndexBuilt.buildIndex (h : IndexBuilt s) : IndexBuilt s.buildIndex := by
  obtain ⟨hwf, -⟩ := h
  refine ⟨State.buildIndex_wf hwf, fun c => ?_⟩
  obtain ⟨hread, -⟩ := s.buildIndex_read hwf c
  simpa using hread

theorem IndexBuilt.finish (h : IndexBuilt s) : IndexBuilt s.finish := h

/-- No other operation writes the FontIndex, and a built one is rebuilt the same (R153). -/
theorem IndexBuilt.of_completes {i : Instr} (h : IndexBuilt s) (hc : Completes s i t) : IndexBuilt t := by
  have stands : i ≠ .buildIndex → IndexBuilt t := fun hi =>
    built_of_index_eq_nil ((hc.index_eq hi).trans (index_eq_nil_of_built h))
  cases hc with
  | buildIndex => exact h.buildIndex.finish
  | _ => exact stands nofun

theorem Inv.of_completes {i : Instr} (h : Inv s) (hc : Completes s i t) : Inv t :=
  ⟨h.lines.of_completes hc, h.selector.of_completes hc, h.display.of_completes hc, h.index.of_completes hc⟩

theorem inv_resetWith (p : Params) : Inv (State.resetWith p) where
  lines := ⟨rfl, rfl, fun _ => rfl, fun h => absurd rfl h⟩
  selector := show Selector.unknown ≠ .cmd by decide
  display := show DisplayState.reset = displayFor 0 by decide
  index := built_of_index_eq_nil rfl

end

/-! ### The obligations -/

/-- Settles O55: a step waits, or takes its request and completes in one of the ways of `Completes`, and each of these
keeps the four parts of the invariant. -/
theorem stepKeepsTheInvariant : Obligations.StepKeepsTheInvariant := by
  intro s t h hstep
  rcases step_next hstep with rfl | ⟨r, later, i, bytes, -, -, hexec⟩
  · exact h
  · have taken : Inv { s with requests := later, bytePort := bytes } := ⟨h.lines, h.selector, h.display, h.index⟩
    exact taken.of_completes (completes_of_exec hexec)

/-- Settles O58: the ways an operation completes, read register by register. `TXN` may be false already where a frame
closes its bracket, and there the agreement of the lines gives the level of chip-select. -/
theorem onlyNamedOperationsWriteState : Obligations.OnlyNamedOperationsWriteState := by
  intro i s t h
  have hc := completes_of_exec h
  obtain ⟨hparams, hports⟩ := hc.params_ports_eq
  refine ⟨hc.display_eq, hc.initialized_eq, hc.window_eq, fun hi c => ?_, fun hs he => ?_, fun hw => ?_, ?_,
    hc.eq_of_isPure, hparams, hports⟩
  · rw [State.indexRead, State.indexRead, hc.index_eq hi, hparams]
  · obtain ⟨htxn, hcs⟩ := hc.txn_cs hs he
    exact ⟨htxn, fun hl => hcs.elim id fun ⟨closed, hcs⟩ => hcs.trans (hl.cs_of_closed closed).symm⟩
  · exact hc.dc_cases.resolve_right fun hd => by simp [hw] at hd
  · exact hc.dc_cases.imp_right And.right

/-- Settles O57: having appended the same events to two traces is kept by every update, so by every operation. -/
theorem traceOnlyGrowsAndIsNeverRead : Obligations.TraceOnlyGrowsAndIsNeverRead := by
  refine ⟨rfl, fun i s w => ?_⟩
  have start : SameAppended s.trace w s { s with trace := w } := ⟨[], by simp⟩
  obtain ⟨hnext, hrest⟩ := ((keptByUpdates_sameAppended s.trace w).exec i start).endings
  refine ⟨fun t ht => ?_, hrest⟩
  obtain ⟨_, hu, es, hes, rfl⟩ := hnext t ht
  exact ⟨es, hes, hu⟩

/-- Settles O60: agreement on all but the transient registers is kept by every update, and an operation that reads one of them
has written it before. -/
theorem transientRegistersCarryNothing : Obligations.TransientRegistersCarryNothing := by
  intro i s hold memo count
  have start : SameLasting s { s with hold := hold, memo := memo, count := count } := ⟨hold, memo, count, rfl⟩
  obtain ⟨hnext, hrest⟩ := (keptByUpdates_sameLasting.exec i start).endings
  refine ⟨fun t ht => ?_, hrest⟩
  obtain ⟨_, hu, _, _, _, rfl⟩ := hnext t ht
  exact ⟨_, hu, rfl⟩

/-- Settles O7: in both cases no request can be taken. -/
theorem blockWaitsForItsRequest : Obligations.BlockWaitsForItsRequest := by
  refine ⟨fun s hr => step_of_fetch_idle (by simp [State.fetch, hr]), fun s q later hr hop hres hshort => ?_⟩
  have hnumber : opNumber q = 0x03#8 := BitVec.eq_of_toNat_eq ((opNumber_toNat q).trans hop)
  have hdecode : decode s.params.opcodes (.head q) s.bytePort = .awaitPayload := by
    rw [decode, decodeHead_03 hnumber, acceptSend, if_pos hres, if_pos (by rwa [payloadCount_eq])]
  exact step_of_fetch_idle (by simp [State.fetch, hr, hdecode])

/-- Settles O53: the FontIndex lists nothing, so it reads as the built index. -/
theorem resetValuesAreTheSpecs : Obligations.ResetValuesAreTheSpecs := by
  obtain ⟨-, hbuilt⟩ := built_of_index_eq_nil (s := State.reset) rfl
  refine ⟨rfl, rfl, rfl, rfl, rfl, rfl, rfl, fun c i hi => ?_, fun c hc => ?_⟩
  · rw [hbuilt, builtIndex_of_fontCode _ hi, recordByte_toNat]
  · rw [hbuilt, builtIndex_of_not_code _ hc]
    rfl

/-- Settles O54: the trace is empty and the FontIndex lists nothing. -/
theorem invHoldsAfterReset : Obligations.InvHoldsAfterReset := ⟨inv_resetWith _, inv_resetWith⟩

end Sys2Proof.Safety
end

section
/-! PROOFS. The statements of `30_encoding.md`: operations and requests name each other (R84, R87, R88), what the
decoder refuses (R91, R222), frames on the wire (R71), and the composites as sequences of their parts (R94). -/

namespace Sys2Proof

/-! ### Head words and their reserved bits -/

section
variable {q : ReqWord} {op n : Nat}

/-- The reserved bits of a row whose operands fill the lowest `w` bits. -/
def reservedAbove (w : Nat) : ReqWord := (BitVec.allOnes (56 - w)).setWidth 64 <<< w

/-- They are clear exactly when the value of `q[55:0]` fits the operands. -/
theorem and_reservedAbove_eq_zero {w : Nat} (hw : w ≤ 56) :
    q &&& reservedAbove w = 0 ↔ q.toNat % 2 ^ 56 < 2 ^ w := by
  rw [reservedAbove, and_range_eq_zero _ _ _ (by omega), ← Nat.mod_mul_right_div_self, ← pow_add,
    Nat.add_sub_cancel' hw, Nat.div_eq_zero_iff_lt (by positivity)]

/-- `DRAW_CHAR` has a reserved nibble above each of its two colours. -/
theorem and_drawCharReserved_eq_zero :
    q &&& 0x00000000F000F000 = 0 ↔ q.toNat / 2 ^ 12 % 2 ^ 4 = 0 ∧ q.toNat / 2 ^ 28 % 2 ^ 4 = 0 := by
  have hmask : (0x00000000F000F000 : ReqWord)
      = (BitVec.allOnes 4).setWidth 64 <<< 12 ||| (BitVec.allOnes 4).setWidth 64 <<< 28 := by decide
  rw [← and_range_eq_zero q 12 4 (by decide), ← and_range_eq_zero q 28 4 (by decide), hmask,
    BitVec.and_or_distrib_left]
  exact BitVec.or_eq_zero_iff

/-- The bits of the operation number alone. -/
theorem and_opNumberMask (hop : q.toNat / 2 ^ 56 = op) :
    q &&& 0xFF00000000000000 = BitVec.ofNat 64 (op * 2 ^ 56) := by
  have hmask : (0xFF00000000000000 : ReqWord) = (BitVec.allOnes 8).setWidth 64 <<< 56 := by decide
  refine BitVec.eq_of_getLsbD_eq fun k hk => ?_
  rw [hmask, BitVec.getLsbD_and, getLsbD_mask 56 8 k hk, BitVec.getLsbD_ofNat, ← hop, Nat.testBit_mul_two_pow,
    Nat.testBit_div_two_pow, BitVec.getLsbD]
  by_cases hlow : 56 ≤ k
  · simp [hk, hlow]
  · simp [hlow]

/-- In a word of a row's operation number, a bit under the row's mask that differs from its match is a reserved bit. -/
theorem and_reserved_ne_zero {reserved : ReqWord} (hop : q.toNat / 2 ^ 56 = op)
    (h : q &&& (0xFF00000000000000 ||| reserved) ≠ BitVec.ofNat 64 (op * 2 ^ 56)) : q &&& reserved ≠ 0 := by
  intro hclear
  rw [BitVec.and_or_distrib_left, and_opNumberMask hop, hclear] at h
  exact h BitVec.or_zero

/-- A word is the head word of its operation number and the value of its lower 56 bits. -/
theorem headWord_eq_head (hnumber : opNumber q = BitVec.ofNat 8 op) (hop : op < 256) (hn : q.toNat % 2 ^ 56 = n) :
    headWord op n = .head q := by
  have hvalue : q.toNat / 2 ^ 56 = op := by
    rw [← opNumber_toNat, hnumber, BitVec.toNat_ofNat, Nat.mod_eq_of_lt hop]
  refine congrArg Request.head (BitVec.eq_of_toNat_eq ?_)
  rw [BitVec.toNat_ofNat]
  omega

/-- A field of a head word is read off its value. -/
theorem field_headWord {lo len : Nat} {x : BitVec len} (hop : op < 256) (hn : n < 72057594037927936)
    (hx : (op * 2 ^ 56 + n) / 2 ^ lo % 2 ^ len = x.toNat) :
    field (BitVec.ofNat 64 (op * 2 ^ 56 + n)) lo len = x := by
  apply BitVec.eq_of_toNat_eq
  rw [field_toNat, headWord_toNat hop hn, hx]

end

/-! ### From an operation to its head word and back -/

section
variable {ops : Opcodes} {i : Instr} {later : List Byte} {op n : Nat} {reserved : ReqWord} {named : ReqWord → Instr}

/-- A row accepts a head word that leaves its reserved bits clear, and its fields give the operation. -/
theorem decode_headWord
    (hrow : ∀ {q bytes}, opNumber q = BitVec.ofNat 8 op → decodeHead q bytes = accept q reserved (named q) bytes)
    (hn : n < 72057594037927936) (hclear : BitVec.ofNat 64 (op * 2 ^ 56 + n) &&& reserved = 0)
    (hfields : named (BitVec.ofNat 64 (op * 2 ^ 56 + n)) = i) (hop : op < 256 := by decide) :
    decode ops (headWord op n) later = .ok i later :=
  (hrow (opNumber_headWord hop hn)).trans (accept_eq_ok.2 ⟨hclear, hfields, rfl⟩)

/-- The same for a row whose operands fill the lowest `w` bits. -/
theorem decode_headWord_below (w : Nat)
    (hrow : ∀ {q bytes}, opNumber q = BitVec.ofNat 8 op →
      decodeHead q bytes = accept q (reservedAbove w) (named q) bytes)
    (hn : n < 2 ^ w) (hfields : n < 72057594037927936 → named (BitVec.ofNat 64 (op * 2 ^ 56 + n)) = i)
    (hop : op < 256 := by decide) (hw : w ≤ 56 := by decide) : decode ops (headWord op n) later = .ok i later := by
  have hn' : n < 72057594037927936 := hn.trans_le (Nat.pow_le_pow_right (by decide) hw)
  refine decode_headWord hrow hn' ((and_reservedAbove_eq_zero hw).2 ?_) (hfields hn') hop
  rw [headWord_toNat hop hn']
  omega

/-- A row without operands. -/
theorem decode_headWord_zero
    (hrow : ∀ {q bytes}, opNumber q = BitVec.ofNat 8 op → decodeHead q bytes = accept q (reservedAbove 0) i bytes)
    (hop : op < 256 := by decide) : decode ops (headWord op 0) later = .ok i later :=
  decode_headWord_below 0 hrow (by decide) (fun _ => rfl) hop

/-- A row with one operand, in the lowest bits. -/
theorem decode_headWord_one {w : Nat} (mk : BitVec w → Instr) (x : BitVec w)
    (hrow : ∀ {q bytes}, opNumber q = BitVec.ofNat 8 op →
      decodeHead q bytes = accept q (reservedAbove w) (mk (field q 0 w)) bytes)
    (hop : op < 256 := by decide) (hw : w ≤ 56 := by decide) :
    decode ops (headWord op x.toNat) later = .ok (mk x) later := by
  refine decode_headWord_below w hrow x.isLt (fun hn => congrArg mk (field_headWord hop hn ?_)) hop hw
  rw [pow_zero, Nat.div_one, ← Nat.sub_add_cancel hw, pow_add, ← mul_assoc, Nat.mul_add_mod', Nat.mod_eq_of_lt x.isLt]

end

/-! ### From an accepted head word to its operation and back -/

/-- What `Obligations.EncodeOfDecodeGivesTheRequest` says of a request that is decoded to `i` and leaves `rest`. -/
def IsRequestOf (ops : Opcodes) (i : Instr) (r : Request) (bytes rest : List Byte) : Prop :=
  i.wellFormed = true ∧ (encode ops i).1 = r ∧ (encode ops i).2 ++ rest = bytes

section
variable {ops : Opcodes} {i j : Instr} {bytes rest : List Byte} {op n : Nat} {q reserved : ReqWord}

/-- What a row accepts is the request of the operation that its fields give. -/
theorem encode_of_accept (hnumber : opNumber q = BitVec.ofNat 8 op) (h : accept q reserved i bytes = .ok j rest)
    (hwf : i.wellFormed = true) (hencode : encode ops i = (headWord op n, []))
    (hn : q &&& reserved = 0 → q.toNat % 2 ^ 56 = n) (hop : op < 256 := by decide) :
    IsRequestOf ops j (.head q) bytes rest := by
  obtain ⟨hclear, rfl, rfl⟩ := accept_eq_ok.1 h
  rw [IsRequestOf, hencode]
  exact ⟨hwf, headWord_eq_head hnumber hop (hn hclear), rfl⟩

/-- The same for a row whose operands fill the lowest `w` bits. -/
theorem encode_of_accept_below (w : Nat) (hnumber : opNumber q = BitVec.ofNat 8 op)
    (h : accept q (reservedAbove w) i bytes = .ok j rest) (hwf : i.wellFormed = true)
    (hencode : encode ops i = (headWord op n, [])) (hn : q.toNat % 2 ^ 56 < 2 ^ w → q.toNat % 2 ^ 56 = n)
    (hop : op < 256 := by decide) (hw : w ≤ 56 := by decide) :
    IsRequestOf ops j (.head q) bytes rest :=
  encode_of_accept hnumber h hwf hencode (fun hclear => hn ((and_reservedAbove_eq_zero hw).1 hclear)) hop

/-- A row without operands. -/
theorem encode_of_accept_zero (hnumber : opNumber q = BitVec.ofNat 8 op)
    (h : accept q (reservedAbove 0) i bytes = .ok j rest) (hwf : i.wellFormed = true)
    (hencode : encode ops i = (headWord op 0, [])) (hop : op < 256 := by decide) :
    IsRequestOf ops j (.head q) bytes rest :=
  encode_of_accept_below 0 hnumber h hwf hencode (by omega) hop

/-- A row with one operand, in the lowest bits. -/
theorem encode_of_accept_one {w : Nat} (mk : BitVec w → Instr) (hnumber : opNumber q = BitVec.ofNat 8 op)
    (h : accept q (reservedAbove w) (mk (field q 0 w)) bytes = .ok j rest)
    (hwf : (mk (field q 0 w)).wellFormed = true)
    (hencode : encode ops (mk (field q 0 w)) = (headWord op (field q 0 w).toNat, []))
    (hop : op < 256 := by decide) (hw : w ≤ 56 := by decide) :
    IsRequestOf ops j (.head q) bytes rest := by
  refine encode_of_accept_below w hnumber h hwf hencode (fun hlt => ?_) hop hw
  rw [field_toNat, pow_zero, Nat.div_one, ← Nat.mod_mod_of_dvd _ (pow_dvd_pow 2 hw), Nat.mod_eq_of_lt hlt]

end

/-! ### `SEND_COMMAND` and its payload -/

section
variable {ops : Opcodes} {j : Instr} {bytes rest : List Byte} {q reserved : ReqWord}

theorem acceptSend_eq_ok : acceptSend q reserved bytes = .ok j rest ↔
    q &&& reserved = 0 ∧ payloadCount q ≤ bytes.length ∧
      .sendCommand (field q 0 8) (bytes.take (payloadCount q)) = j ∧ bytes.drop (payloadCount q) = rest := by
  unfold acceptSend
  split
  · split <;> simp_all
  · simp_all

theorem acceptSend_eq_reservedBits : acceptSend q reserved bytes = .reservedBits ↔ q &&& reserved ≠ 0 := by
  unfold acceptSend
  split
  · split <;> simp_all
  · simp_all

/-- A payload of at most 127 bytes survives the trip: its length fits the count's field. -/
theorem decode_encode_sendCommand (code : Byte) (payload later : List Byte) (hlen : payload.length ≤ maxPayload) :
    decode ops (encode ops (.sendCommand code payload)).1 ((encode ops (.sendCommand code payload)).2 ++ later)
      = .ok (.sendCommand code payload) later := by
  have hcode := code.isLt
  rw [maxPayload] at hlen
  have hn : code.toNat + payload.length * 2 ^ 8 < 72057594037927936 := by omega
  have hvalue := headWord_toNat (op := 3) (by decide) hn
  have hcount :
      payloadCount (BitVec.ofNat 64 (3 * 2 ^ 56 + (code.toNat + payload.length * 2 ^ 8))) = payload.length := by
    rw [payloadCount_eq, hvalue]
    omega
  refine (decodeHead_03 (opNumber_headWord (by decide) hn)).trans (acceptSend_eq_ok.2 ⟨?_, ?_, ?_, ?_⟩)
  · refine (and_reservedAbove_eq_zero (w := 15) (by decide)).2 ?_
    rw [hvalue]
    omega
  · rw [hcount]
    simp [encode]
  · rw [hcount, field_headWord (x := code) (by decide) hn (by omega)]
    simp [encode]
  · rw [hcount]
    simp [encode]

/-- An accepted `SEND_COMMAND` has taken as many bytes as its word announces, at most 127. -/
theorem encode_of_acceptSend (hnumber : opNumber q = 0x03#8) (h : acceptSend q 0x00FFFFFFFFFF8000 bytes = .ok j rest) :
    IsRequestOf ops j (.head q) bytes rest := by
  obtain ⟨hclear, hcount, rfl, rfl⟩ := acceptSend_eq_ok.1 h
  have hlen : (bytes.take (payloadCount q)).length = payloadCount q := List.length_take_of_le hcount
  have hbelow := (and_reservedAbove_eq_zero (w := 15) (by decide)).1 hclear
  refine ⟨?_, headWord_eq_head hnumber (by decide) ?_, List.take_append_drop _ _⟩
  · rw [Instr.wellFormed, hlen, payloadCount_eq, maxPayload, decide_eq_true_eq]
    omega
  · rw [hlen, payloadCount_eq, field_toNat]
    omega

end

/-! ### Wire command bytes -/

theorem Opcodes.nodup (ops : Opcodes) : ops.bytes.toList.Nodup := by
  obtain ⟨hnodup, -⟩ := Bool.and_eq_true_iff.1 ops.ok
  exact of_decide_eq_true hnodup

section
variable {ops : Opcodes} {i : Instr} {b : Byte} {bytes rest : List Byte}

/-- A byte that the decoder accepts is the opcode byte of its operation, and takes nothing off the byte port. -/
theorem encode_of_decodeWire (h : decodeWire ops b bytes = .ok i rest) : IsRequestOf ops i (.wire b) bytes rest := by
  unfold decodeWire at h
  split_ifs at h with hb hb hb hb hb hb hb hb
  all_goals
    cases h
    rw [hb]
    exact ⟨rfl, rfl, rfl⟩

/-- The eight opcode bytes are distinct (R84), so each names its own operation. -/
theorem decodeWire_of_encode (h : encode ops i = (.wire b, [])) : decodeWire ops b bytes = .ok i bytes := by
  have hne : ops.bytes.toList.Pairwise fun x y => y ≠ x := ops.nodup.imp Ne.symm
  simp only [OpcodeBytes.toList, List.pairwise_cons, List.forall_mem_cons] at hne
  cases i with
  | swreset | slpout | gammaset | dispon | caset | paset | ramwr | madctl =>
    cases h
    simp [decodeWire, hne]
  | _ => cases h

end

/-! ### The table as a whole -/

/-- A head word that the decoder accepts is the request of the operation it answers, row by row. -/
theorem encode_of_decodeHead {ops : Opcodes} {q : ReqWord} {bytes rest : List Byte} {j : Instr}
    (h : decodeHead q bytes = .ok j rest) : IsRequestOf ops j (.head q) bytes rest := by
  unfold decodeHead at h
  split at h
  next hnumber => exact encode_of_accept_zero (i := .startTransaction) hnumber h rfl rfl
  next hnumber => exact encode_of_accept_zero (i := .endTransaction) hnumber h rfl rfl
  next hnumber => exact encode_of_acceptSend hnumber h
  next hnumber => exact encode_of_accept_one .writeCommand hnumber h rfl rfl
  next hnumber => exact encode_of_accept_one .writeData8 hnumber h rfl rfl
  next hnumber => exact encode_of_accept_one .writeData16 hnumber h rfl rfl
  next hnumber => exact encode_of_accept_one .writeData32 hnumber h rfl rfl
  next hnumber => exact encode_of_accept_one .toDisplayColor hnumber h rfl rfl
  next hnumber =>
    exact encode_of_accept_below (i := .packBurstWord _ _) 32 hnumber h rfl rfl (by simp only [field_toNat]; omega)
  next hnumber =>
    exact encode_of_accept_below (i := .blend _ _ _) 36 hnumber h rfl rfl (by simp only [field_toNat]; omega)
  next hnumber => exact encode_of_accept_zero (i := .buildIndex) hnumber h rfl rfl
  next hnumber => exact encode_of_accept_one .lookup hnumber h rfl rfl
  next hnumber =>
    exact encode_of_accept_below (i := .streamGlyph _ _ _) 40 hnumber h rfl rfl (by simp only [field_toNat]; omega)
  next hnumber =>
    exact encode_of_accept_below (i := .streamFill _ _) 48 hnumber h rfl rfl (by simp only [field_toNat]; omega)
  next hnumber =>
    exact encode_of_accept_below (i := .setWindow _ _ _ _) 56 hnumber h rfl rfl (by simp only [field_toNat]; omega)
  next hnumber => exact encode_of_accept_zero (i := .initRun) hnumber h rfl rfl
  next hnumber => exact encode_of_accept_zero (i := .beginDriver) hnumber h rfl rfl
  next hnumber => exact encode_of_accept_one .setRotation hnumber h rfl rfl
  next hnumber => exact encode_of_accept_one .fillScreen hnumber h rfl rfl
  next hnumber =>
    refine encode_of_accept (i := .drawChar _ _ _ _ _) hnumber h rfl rfl fun hclear => ?_
    have hnibbles := and_drawCharReserved_eq_zero.1 hclear
    simp only [field_toNat]
    omega
  next hnumber => exact encode_of_accept_zero (i := .getWidth) hnumber h rfl rfl
  next hnumber => exact encode_of_accept_zero (i := .getHeight) hnumber h rfl rfl
  next hnumber => exact encode_of_accept_zero (i := .getRows) hnumber h rfl rfl
  next hnumber => exact encode_of_accept_zero (i := .getColumns) hnumber h rfl rfl
  next => cases h

/-- A well-formed operation is read back from its request, whatever bytes follow its payload. -/
theorem decode_encode {ops : Opcodes} {i : Instr} (later : List Byte) (hwf : i.wellFormed = true) :
    decode ops (encode ops i).1 ((encode ops i).2 ++ later) = .ok i later := by
  cases i with
  | startTransaction => exact decode_headWord_zero decodeHead_01
  | endTransaction => exact decode_headWord_zero decodeHead_02
  | sendCommand code payload => exact decode_encode_sendCommand code payload later (of_decide_eq_true hwf)
  | writeCommand code => exact decode_headWord_one .writeCommand code decodeHead_04
  | writeData8 b => exact decode_headWord_one .writeData8 b decodeHead_05
  | writeData16 w => exact decode_headWord_one .writeData16 w decodeHead_06
  | writeData32 w => exact decode_headWord_one .writeData32 w decodeHead_07
  | toDisplayColor c12 => exact decode_headWord_one .toDisplayColor c12 decodeHead_10
  | packBurstWord a b =>
    have := a.isLt; have := b.isLt
    refine decode_headWord_below 32 decodeHead_11 (by omega) fun hn => ?_
    congr <;> exact field_headWord (by decide) hn (by omega)
  | blend tone fore back =>
    have := tone.isLt; have := fore.isLt; have := back.isLt
    refine decode_headWord_below 36 decodeHead_18 (by omega) fun hn => ?_
    congr <;> exact field_headWord (by decide) hn (by omega)
  | buildIndex => exact decode_headWord_zero decodeHead_20
  | lookup code => exact decode_headWord_one .lookup code decodeHead_21
  | streamGlyph char fore back =>
    have := char.isLt; have := fore.isLt; have := back.isLt
    refine decode_headWord_below 40 decodeHead_28 (by omega) fun hn => ?_
    congr <;> exact field_headWord (by decide) hn (by omega)
  | streamFill c16 n =>
    have := c16.isLt; have := n.isLt
    refine decode_headWord_below 48 decodeHead_29 (by omega) fun hn => ?_
    congr <;> exact field_headWord (by decide) hn (by omega)
  | setWindow x1 x2 y1 y2 =>
    have := x1.isLt; have := x2.isLt; have := y1.isLt; have := y2.isLt
    refine decode_headWord_below 56 decodeHead_30 (by omega) fun hn => ?_
    congr <;> exact field_headWord (by decide) hn (by omega)
  | initRun => exact decode_headWord_zero decodeHead_31
  | beginDriver => exact decode_headWord_zero decodeHead_38
  | setRotation m => exact decode_headWord_one .setRotation m decodeHead_39
  | fillScreen c12 => exact decode_headWord_one .fillScreen c12 decodeHead_3a
  | drawChar col row char fore12 back12 =>
    have := col.isLt; have := row.isLt; have := char.isLt; have := fore12.isLt; have := back12.isLt
    have hn : back12.toNat + fore12.toNat * 2 ^ 16 + char.toNat * 2 ^ 32 + row.toNat * 2 ^ 40 + col.toNat * 2 ^ 48
      < 72057594037927936 := by omega
    refine decode_headWord decodeHead_3b hn (and_drawCharReserved_eq_zero.2 ?_) ?_
    · rw [headWord_toNat (by decide) hn]
      omega
    · congr <;> exact field_headWord (by decide) hn (by omega)
  | getWidth => exact decode_headWord_zero decodeHead_3c
  | getHeight => exact decode_headWord_zero decodeHead_3d
  | getRows => exact decode_headWord_zero decodeHead_3e
  | getColumns => exact decode_headWord_zero decodeHead_3f
  | swreset | slpout | gammaset | dispon | caset | paset | ramwr | madctl => exact decodeWire_of_encode rfl

/-- A head word whose operation number is in no row. -/
theorem decodeHead_of_number_unassigned {q : ReqWord} {bytes : List Byte}
    (h : q.toNat / 2 ^ 56 ∉ [0x01, 0x02, 0x03, 0x04, 0x05, 0x06, 0x07, 0x10, 0x11, 0x18, 0x20, 0x21, 0x28, 0x29, 0x30,
      0x31, 0x38, 0x39, 0x3A, 0x3B, 0x3C, 0x3D, 0x3E, 0x3F]) : decodeHead q bytes = .unknownOp := by
  refine decodeHead_unassigned fun hmem => h ?_
  rw [← opNumber_toNat]
  exact List.mem_map_of_mem (f := BitVec.toNat) hmem

end Sys2Proof

namespace Sys2Proof.Machine

/-! ### Refused requests -/

theorem step_of_fetch_bad {s : State} {why : Refusal} (h : s.fetch = .bad why) : step s = .refused why := by
  simp [step, h]

/-- What `Obligations.ReservedBitIsRefused` says of one row, given as its operation number and its mask. -/
def RefusesReserved (row : Nat × ReqWord) : Prop :=
  ∀ (s : State) (q : ReqWord) (later : List Request), s.requests = .head q :: later → q.toNat / 2 ^ 56 = row.1 →
    q &&& row.2 ≠ BitVec.ofNat 64 (row.1 * 2 ^ 56) → step s = .refused .reservedBits

section
variable {op : Nat} {reserved : ReqWord} {named : ReqWord → Instr}

theorem refusesReserved_of_decodeHead (hop : op < 256)
    (hrow : ∀ q bytes, opNumber q = BitVec.ofNat 8 op → q &&& reserved ≠ 0 → decodeHead q bytes = .reservedBits) :
    RefusesReserved (op, 0xFF00000000000000 ||| reserved) := by
  intro s q later hr hnumber hbit
  have hbad : decodeHead q s.bytePort = .reservedBits := by
    refine hrow q _ (BitVec.eq_of_toNat_eq ?_) (and_reserved_ne_zero hnumber hbit)
    rw [opNumber_toNat, hnumber, BitVec.toNat_ofNat, Nat.mod_eq_of_lt hop]
  exact step_of_fetch_bad (by simp [State.fetch, hr, decode, hbad])

theorem refusesReserved_of_accept
    (hrow : ∀ {q bytes}, opNumber q = BitVec.ofNat 8 op → decodeHead q bytes = accept q reserved (named q) bytes)
    (hop : op < 256 := by decide) : RefusesReserved (op, 0xFF00000000000000 ||| reserved) :=
  refusesReserved_of_decodeHead hop fun _ _ hnumber hbit => (hrow hnumber).trans (accept_eq_reservedBits.2 hbit)

theorem refusesReserved_sendCommand : RefusesReserved (0x03, 0xFFFFFFFFFFFF8000) :=
  refusesReserved_of_decodeHead (by decide) fun _ _ hnumber hbit =>
    (decodeHead_03 hnumber).trans (acceptSend_eq_reservedBits.2 hbit)

end

/-! ### The head of a frame -/

theorem State.sendFrameHead_of_opened {s : State} (opened : s.framer.txn = true) (code : Byte) :
    s.sendFrameHead code = s.writeCommand code := by
  simp [State.sendFrameHead, opened]

theorem State.sendFrameHead_of_closed {s : State} (closed : s.framer.txn = false) (code : Byte) :
    s.sendFrameHead code = s.sendCommand code [] := by
  simp [State.sendFrameHead, closed]

/-! ### Streaming a glyph, by the record of its character -/

section
variable {s : State} (opened : s.framer.txn = true) (data : s.framer.dc = .data) {char : Byte}
include opened data

theorem exec_streamGlyph_of_record {g : Fin 95} (record : s.glyphRecord char = some g) (fore back : Color16) :
    exec (.streamGlyph char fore back) s = .next (s.streamGlyph g char fore back).finish := by
  rw [exec, execStreamGlyph, State.inDataMode_ready opened data, record]

theorem exec_streamGlyph_of_no_record (record : s.glyphRecord char = none) (fore back : Color16) :
    exec (.streamGlyph char fore back) s = .fault .fontRecordOutOfRange := by
  rw [exec, execStreamGlyph, State.inDataMode_ready opened data, record]

end

/-! ### States that differ in their response -/

/-- `u` is `s` but for the response. -/
def SameButResp (s u : State) : Prop := ∃ v, u = { s with resp := v }

theorem sameButResp_finish (s : State) : SameButResp s s.finish := ⟨none, rfl⟩

theorem SameButResp.finish {s u : State} (h : SameButResp s u) : u.finish = s.finish := by
  obtain ⟨v, rfl⟩ := h
  rfl

theorem keptByUpdates_sameButResp : KeptByUpdates SameButResp := by
  constructor
  case reads =>
    rintro t _ ⟨_, rfl⟩
    exact ⟨rfl, rfl, rfl, rfl, rfl⟩
  all_goals
    rintro t _ v ⟨_, rfl⟩
    exact ⟨_, rfl⟩

/-! ### A bracket opened and its window programmed -/

section
variable (s : State) (x1 x2 y1 y2 : Half)

theorem State.bracketedWindow_txn : (s.startTransaction.setWindow x1 x2 y1 y2).framer.txn = true := by
  simp

theorem State.bracketedWindow_dc : (s.startTransaction.setWindow x1 x2 y1 y2).framer.dc = .data := by
  simp

theorem State.bracketedWindow_glyphRecord (char : Byte) :
    (s.startTransaction.setWindow x1 x2 y1 y2).glyphRecord char = s.glyphRecord char := by
  simp [State.glyphRecord]

end

/-! ### Geometry -/

/-- The pixel count is 76,800 in every rotation (R200), and the last column and row fit the window's operands (R88). -/
theorem displayFor_geometry (r : BitVec 2) : pixelCount (displayFor r) = 76800 ∧
    (BitVec.ofNat 14 ((displayFor r).width.toNat - 1)).setWidth 16 = (displayFor r).width - 1 ∧
    (BitVec.ofNat 14 ((displayFor r).height.toNat - 1)).setWidth 16 = (displayFor r).height - 1 := by
  revert r
  decide

theorem setWidth_ofNat_of_lt {n : Nat} (hn : n < 16384) : (BitVec.ofNat 14 n).setWidth 16 = BitVec.ofNat 16 n := by
  apply BitVec.eq_of_toNat_eq
  simp only [BitVec.toNat_setWidth, BitVec.toNat_ofNat]
  omega

/-- The corners of every cell fit the window's operands (R88, R199). -/
theorem cellX_operands (col : Byte) : (BitVec.ofNat 14 (5 * col.toNat)).setWidth 16 = cellX col ∧
    (BitVec.ofNat 14 (5 * col.toNat + 4)).setWidth 16 = cellX col + 4 := by
  have := col.isLt
  rw [setWidth_ofNat_of_lt (by omega), setWidth_ofNat_of_lt (by omega), BitVec.ofNat_add]
  exact ⟨rfl, rfl⟩

theorem cellY_operands (row : Byte) : (BitVec.ofNat 14 (10 * row.toNat)).setWidth 16 = cellY row ∧
    (BitVec.ofNat 14 (10 * row.toNat + 9)).setWidth 16 = cellY row + 9 := by
  have := row.isLt
  rw [setWidth_ofNat_of_lt (by omega), setWidth_ofNat_of_lt (by omega), BitVec.ofNat_add]
  exact ⟨rfl, rfl⟩

theorem State.clips_eq_false {s : State} {col row : Byte} (hcol : col.toNat < s.display.columns.toNat)
    (hrow : row.toNat < s.display.rows.toNat) : s.clips col row = false := by
  have hright : ¬s.display.columns ≤ col.setWidth 16 := by
    rw [BitVec.le_def, BitVec.toNat_setWidth]
    omega
  have hbelow : ¬s.display.rows ≤ row.setWidth 16 := by
    rw [BitVec.le_def, BitVec.toNat_setWidth]
    omega
  simp [State.clips, hright, hbelow]

end Sys2Proof.Machine

namespace Sys2Proof.Safety

open Sys2Proof.Machine

/-! ### Operations in sequence: what the next one does where the one before it has completed -/

section
variable {i : Instr} {rest : List Instr} {s t : State}

theorem execAll_cons_of_next (h : exec i s = .next t) : execAll (i :: rest) s = execAll rest t := by
  simp [execAll, h]

theorem execAll_cons_of_fault {r : Fault} (h : exec i s = .fault r) : execAll (i :: rest) s = .fault r := by
  simp [execAll, h]

theorem execAll_toDisplayColor (c12 : Color12) (v : Option Word) :
    execAll (.toDisplayColor c12 :: rest) { s with resp := v } = execAll rest
      { s with resp := some ((toDisplayColor s.params.readings.greenFill c12).setWidth 32) } := rfl

theorem execAll_startTransaction (closed : s.framer.txn = false) (v : Option Word) :
    execAll (.startTransaction :: rest) { s with resp := v } = execAll rest s.startTransaction.finish :=
  execAll_cons_of_next (State.outOfBracket_closed closed)

end

section
variable {rest : List Instr} {s : State} (opened : s.framer.txn = true)
include opened

theorem execAll_endTransaction : execAll [.endTransaction] s.finish = .next s.endTransaction.finish :=
  execAll_cons_of_next (State.inBracket_open opened)

theorem execAll_writeCommand (code : Byte) :
    execAll (.writeCommand code :: rest) s.finish = execAll rest (s.writeCommand code).finish :=
  execAll_cons_of_next (State.inBracket_open opened)

theorem execAll_setWindow (x1 x2 y1 y2 : Coord14) : execAll (.setWindow x1 x2 y1 y2 :: rest) s.finish
    = execAll rest (s.setWindow (x1.setWidth 16) (x2.setWidth 16) (y1.setWidth 16) (y2.setWidth 16)).finish := by
  rw [← (keptByUpdates_sameButResp.setWindow _ _ _ _ (sameButResp_finish s)).finish]
  exact execAll_cons_of_next (State.inBracket_open opened)

variable (data : s.framer.dc = .data)
include data

theorem execAll_writeData8 (b : Byte) :
    execAll (.writeData8 b :: rest) s.finish = execAll rest (s.emit (.tx8 b)).finish :=
  execAll_cons_of_next (State.inDataMode_ready opened data)

/-- A payload goes out byte by byte. -/
theorem execAll_payload (payload : List Byte) :
    execAll (payload.map .writeData8 ++ rest) s.finish = execAll rest (s.emits (payload.map .tx8)).finish := by
  induction payload generalizing s with
  | nil => simp [State.emits]
  | cons b bs ih =>
    have hemits : (s.emit (.tx8 b)).emits (bs.map .tx8) = s.emits ((b :: bs).map .tx8) := by
      simp [State.emit, State.emits]
    rw [← hemits]
    exact (execAll_writeData8 opened data b).trans (ih opened data)

theorem execAll_streamFill (c16 : Color16) {n : Word} (even : n.getLsbD 0 = false) :
    execAll (.streamFill c16 n :: rest) s.finish = execAll rest (s.streamFill c16 n).finish :=
  execAll_cons_of_next ((State.inDataMode_ready opened data).trans (evenCount_next.2 ⟨even, rfl⟩))

theorem execAll_streamGlyph {char : Byte} {g : Fin 95} (record : s.glyphRecord char = some g) (fore back : Color16) :
    execAll (.streamGlyph char fore back :: rest) s.finish = execAll rest (s.streamGlyph g char fore back).finish := by
  rw [← (keptByUpdates_sameButResp.streamGlyph _ _ _ _ (sameButResp_finish s)).finish]
  exact execAll_cons_of_next (exec_streamGlyph_of_record (s := s.finish) opened data record fore back)

theorem execAll_streamGlyph_of_no_record {char : Byte} (record : s.glyphRecord char = none) (fore back : Color16) :
    execAll (.streamGlyph char fore back :: rest) s.finish = .fault .fontRecordOutOfRange :=
  execAll_cons_of_fault (exec_streamGlyph_of_no_record (s := s.finish) opened data record fore back)

end

/-! ### Frames on the wire -/

theorem framesFrom_nil (l : Lines) : framesFrom l [] = [] := rfl

theorem marksFrom_payload (payload : List Byte) (later : List Event) :
    marksFrom ⟨true, .asserted, .data⟩ (payload.map .tx8 ++ later)
      = payload.map (.byte .data) ++ marksFrom ⟨true, .asserted, .data⟩ later := by
  induction payload with
  | nil => rfl
  | cons b bs ih => simp [marksFrom, Lines.marks, Lines.after, Event.wireBytes, ih]

/-- A command byte, its data bytes and the end of the transaction are one frame, whatever stands on either side. -/
theorem framesIn_append_frame (before later : List Mark) (code : Byte) (payload : List Byte) :
    framesIn (before ++ .byte .cmd code :: (payload.map (.byte .data) ++ .release :: later))
      = framesIn before ++ ⟨code, payload⟩ :: framesIn later := by
  have hhead (ms : List Mark) : framesIn (.byte .cmd code :: ms) = ⟨code, dataRun ms⟩ :: framesIn ms := rfl
  have hrun : dataRun (.release :: later) = [] := rfl
  rw [framesIn_append_cmd, hhead, dataRun_map_data, hrun, List.append_nil, framesIn_map_data]
  rfl

section
variable {s : State} (h : LinesAgree s)
include h

/-- On a wire whose lines the registers follow, what is appended is read from the lines as the registers give them. -/
theorem LinesAgree.frames_append (es : List Event) :
    frames (s.trace ++ es) = framesIn (marksFrom Lines.idle s.trace ++ marksFrom s.lines es) := by
  obtain ⟨hreplay, -, -⟩ := h
  rw [frames, framesFrom, marksFrom_append, ← replayFrom_some hreplay]
  rfl

/-- A stand-alone frame and what follows it, after the frames already there. -/
theorem LinesAgree.frames_sendCommand (closed : s.framer.txn = false) (code : Byte) (payload : List Byte)
    (later : List Event) : frames ((s.sendCommand code payload).trace ++ later)
      = frames s.trace ++ ⟨code, payload⟩ :: framesFrom ⟨false, .deasserted, .data⟩ later := by
  have hmarks : marksFrom s.lines ([.busBegin s.params.tables.data.spiClockHz s.params.tables.data.spiMode, .csAssert,
      .dcCmd, .tx8 code, .dcData] ++ payload.map .tx8 ++ [.csDeassert, .busEnd] ++ later)
      = .byte .cmd code :: (payload.map (.byte .data) ++ .release :: marksFrom ⟨false, .deasserted, .data⟩ later) := by
    simp [State.lines, closed, marksFrom, Lines.marks, Lines.after, Event.wireBytes, marksFrom_payload]
  rw [State.sendCommand_trace, List.append_assoc, h.frames_append, hmarks, framesIn_append_frame]
  rfl

theorem LinesAgree.frames_writeCommand (opened : s.framer.txn = true) (code : Byte) :
    frames (s.writeCommand code).trace = frames s.trace ++ [⟨code, []⟩] := by
  have hmarks : marksFrom s.lines [.dcCmd, .tx8 code, .dcData] = [.byte .cmd code] := by
    simp [State.lines, opened, marksFrom, Lines.marks, Lines.after, Event.wireBytes]
  rw [State.writeCommand_trace, h.frames_append, hmarks, framesIn_append_cmd]
  rfl

/-- The end of a transaction parts what is sent later from the frames already there. -/
theorem LinesAgree.frames_endTransaction (later : List Event) : frames (s.endTransaction.trace ++ later)
    = frames s.trace ++ framesFrom ⟨false, .deasserted, s.framer.dc⟩ later := by
  have hmarks : marksFrom s.lines ([.csDeassert, .busEnd] ++ later)
      = .release :: marksFrom ⟨false, .deasserted, s.framer.dc⟩ later := by
    simp [State.lines, marksFrom, Lines.marks, Lines.after]
  rw [State.endTransaction_trace, List.append_assoc, h.frames_append, hmarks, framesIn_append_release]
  rfl

end

/-! ### The command bytes an operation sends -/

theorem commandCodes_cons_of_ne {e : Event} (he : e ≠ .dcCmd) (later : List Event) :
    commandCodes (e :: later) = commandCodes later := by
  cases e with
  | dcCmd => exact absurd rfl he
  | _ => rfl

/-- Without a move of the selector to command there is no command byte. -/
theorem commandCodes_append_of_ne {es : List Event} (hes : ∀ e ∈ es, e ≠ .dcCmd) (later : List Event) :
    commandCodes (es ++ later) = commandCodes later := by
  induction es with
  | nil => rfl
  | cons e rest ih =>
    obtain ⟨he, hrest⟩ := List.forall_mem_cons.1 hes
    exact (commandCodes_cons_of_ne he _).trans (ih hrest)

/-- The opcode bytes that the block sends of its own accord outside the init script: the window's three and
memory-access-control (R187, R197). -/
def ownCodes (p : Params) : List Byte :=
  [p.opcodes.bytes.caset, p.opcodes.bytes.paset, p.opcodes.bytes.ramwr, p.opcodes.bytes.madctl]

/-- No other opcode byte is one of these (R84). -/
theorem ne_of_mem_ownCodes {p : Params} {code : Byte} (h : code ∈ ownCodes p) :
    code ≠ p.opcodes.bytes.slpout ∧ code ≠ p.opcodes.bytes.dispon ∧ code ≠ p.opcodes.bytes.swreset
      ∧ code ≠ p.opcodes.bytes.gammaset := by
  have hsplit : p.opcodes.bytes.toList = [p.opcodes.bytes.swreset, p.opcodes.bytes.slpout, p.opcodes.bytes.gammaset,
    p.opcodes.bytes.dispon] ++ ownCodes p := rfl
  have hnodup := p.opcodes.nodup
  rw [hsplit, List.nodup_append] at hnodup
  obtain ⟨-, -, hne⟩ := hnodup
  exact ⟨(hne _ (by simp) _ h).symm, (hne _ (by simp) _ h).symm, (hne _ (by simp) _ h).symm, (hne _ (by simp) _ h).symm⟩

/-- `t` has appended events to the trace of `s` that put no command byte but these on the wire, whatever follows. -/
def SendsOwn (s t : State) : Prop :=
  t.params = s.params ∧ ∃ es, t.trace = s.trace ++ es ∧
    ∀ later, commandCodes (es ++ later) ⊆ ownCodes s.params ++ commandCodes later

namespace SendsOwn

variable {s t u : State}

theorem of_silent {es : List Event} (hp : t.params = s.params) (ht : t.trace = s.trace ++ es)
    (hes : ∀ e ∈ es, e ≠ .dcCmd) : SendsOwn s t :=
  ⟨hp, es, ht, fun later => by simp [commandCodes_append_of_ne hes]⟩

theorem of_trace_eq (hp : t.params = s.params) (ht : t.trace = s.trace) : SendsOwn s t :=
  of_silent (es := []) hp (by simpa using ht) (by simp)

theorem trans (h : SendsOwn s t) (h' : SendsOwn t u) : SendsOwn s u := by
  obtain ⟨hp, es, ht, hes⟩ := h
  obtain ⟨hp', es', hu, hes'⟩ := h'
  refine ⟨hp'.trans hp, es ++ es', by rw [hu, ht, List.append_assoc], fun later => ?_⟩
  rw [List.append_assoc]
  refine List.Subset.trans (hes _) (List.append_subset.2 ⟨List.subset_append_left _ _, ?_⟩)
  rw [← hp]
  exact hes' later

theorem finish (h : SendsOwn s t) : SendsOwn s t.finish := h

theorem emits (s : State) {es : List Event} (hes : ∀ e ∈ es, e.isStreamed = true) : SendsOwn s (s.emits es) :=
  of_silent rfl rfl fun e he hcmd => by simpa [hcmd, Event.isStreamed] using hes e he

theorem startTransaction (s : State) : SendsOwn s s.startTransaction := of_silent rfl rfl (by simp)

theorem endTransaction (s : State) : SendsOwn s s.endTransaction := of_silent rfl rfl (by simp)

theorem writeCommand (s : State) {code : Byte} (hcode : code ∈ ownCodes s.params) : SendsOwn s (s.writeCommand code) :=
  ⟨rfl, _, rfl, fun _ => List.cons_subset.2 ⟨List.mem_append_left _ hcode, List.subset_append_right _ _⟩⟩

theorem sendPair (s : State) {code : Byte} (hcode : code ∈ ownCodes s.params) (first last : Half) :
    SendsOwn s (s.sendPair code first last) :=
  (writeCommand s hcode).trans (emits _ (by simp [Event.isStreamed]))

theorem programColumns (s : State) (x1 x2 : Half) : SendsOwn s (s.programColumns x1 x2) := by
  rcases s.programColumns_cases x1 x2 with ⟨-, hc⟩ | ⟨-, hc⟩ <;> rw [hc]
  · exact of_trace_eq rfl rfl
  · exact sendPair s (by simp [ownCodes]) x1 x2

theorem programRows (s : State) (y1 y2 : Half) : SendsOwn s (s.programRows y1 y2) := by
  rcases s.programRows_cases y1 y2 with ⟨-, hr⟩ | ⟨-, hr⟩ <;> rw [hr]
  · exact of_trace_eq rfl rfl
  · exact sendPair s (by simp [ownCodes]) y1 y2

theorem setWindow (s : State) (x1 x2 y1 y2 : Half) : SendsOwn s (s.setWindow x1 x2 y1 y2) := by
  have h := (programColumns s x1 x2).trans (programRows _ y1 y2)
  refine h.trans (writeCommand _ ?_)
  obtain ⟨hp, -⟩ := h
  simp [ownCodes, hp]

theorem sendCommand (s : State) {code : Byte} (hcode : code ∈ ownCodes s.params) (payload : List Byte) :
    SendsOwn s (s.sendCommand code payload) :=
  (((startTransaction s).trans (writeCommand _ hcode)).trans (emits _ (by simp [Event.isStreamed]))).trans
    (endTransaction _)

theorem borderRow (s : State) (row : Fin 10) : SendsOwn s (s.borderRow row) := by
  obtain ⟨ht, -, hp⟩ := s.borderRow_spec row
  exact of_silent hp ht (by simp)

theorem glyphDataRow (g : Fin 95) (s : State) (k : Fin 9) : SendsOwn s (s.glyphDataRow g k) := by
  obtain ⟨ht, -, -, -, hp⟩ := State.glyphDataRow_spec g s k
  exact of_silent hp ht (by simp)

theorem streamGlyph (s : State) (g : Fin 95) (char : Byte) (fore back : Color16) :
    SendsOwn s (s.streamGlyph g char fore back) :=
  (List.foldlRecOn _ _ (motive := SendsOwn s) (borderRow (s.latchGlyph g char fore back) 0)
    fun _ h k _ => h.trans (glyphDataRow g _ k)).trans (borderRow _ 9)

theorem streamFill (s : State) (c16 : Color16) (n : Word) : SendsOwn s (s.streamFill c16 n) :=
  emits s (fillEvents_streamed _ _)

theorem drawCell (s : State) (g : Fin 95) (col row char : Byte) (fore12 back12 : Color12) :
    SendsOwn s (s.drawCell g col row char fore12 back12) :=
  (((startTransaction s).trans (setWindow _ _ _ _ _)).trans (streamGlyph _ _ _ _ _)).trans (endTransaction _)

/-- So does every operation that neither replays the script nor is given its command byte. -/
theorem of_completes {i : Instr} (hc : Completes s i t) (hgiven : sendsGivenCode i = false) (hrun : i ≠ .initRun)
    (hbegin : i ≠ .beginDriver) : SendsOwn s t := by
  cases hc with
  | startTransaction => exact (startTransaction s).finish
  | endTransaction => exact (endTransaction s).finish
  | writeData8 | writeData16 | writeData32 => exact (emits s (by simp [Event.isStreamed])).finish
  | streamGlyph => exact (streamGlyph s _ _ _ _).finish
  | streamFill => exact (streamFill s _ _).finish
  | setWindow => exact (setWindow s _ _ _ _).finish
  | initRun => exact absurd rfl hrun
  | beginDriver => exact absurd rfl hbegin
  | setRotation => exact (sendCommand (s.rotate _) (by simp [ownCodes]) _).finish
  | fillScreen =>
    exact ((((startTransaction s).trans (setWindow _ _ _ _ _)).trans (streamFill _ _ _)).trans
      (endTransaction _)).finish
  | drawChar => exact (drawCell s _ _ _ _ _ _).finish
  | sendCommand | writeCommand | swreset | slpout | gammaset | dispon | caset | paset | ramwr | madctl => cases hgiven
  | buildIndex => exact of_trace_eq (by simp) (by simp)
  | toDisplayColor | packBurstWord | blend | lookup | drawCharClipped | getWidth | getHeight | getRows
  | getColumns => exact of_trace_eq rfl rfl

end SendsOwn

/-! ### The obligations -/

/-- Settles O1: each row accepts the operation's word, whose operands leave the row's reserved bits clear, and its
fields read the operands back; each opcode byte names its own operation. -/
theorem decodeOfEncodeGivesTheInstr : Obligations.DecodeOfEncodeGivesTheInstr :=
  fun _ _ later hwf => decode_encode later hwf

/-- Settles O2: an accepted head word has its row's reserved bits clear, so it is its number and its fields. -/
theorem encodeOfDecodeGivesTheRequest : Obligations.EncodeOfDecodeGivesTheRequest := by
  intro ops r bytes rest i h
  cases r with
  | head q => exact encode_of_decodeHead h
  | wire b => exact encode_of_decodeWire h

/-- Settles O3: the ranges hold no number of a row. -/
theorem unassignedOperationNumberIsRefused : Obligations.UnassignedOperationNumberIsRefused := by
  intro s q later hr hop
  have hbad : decodeHead q s.bytePort = .unknownOp := by
    refine decodeHead_of_number_unassigned fun hmem => ?_
    simp only [List.mem_cons, List.not_mem_nil, or_false] at hmem
    omega
  exact step_of_fetch_bad (by simp [State.fetch, hr, decode, hbad])

/-- Settles O4, row by row: with the row's operation number, only a reserved bit under its mask can differ. -/
theorem reservedBitIsRefused : Obligations.ReservedBitIsRefused := by
  show ∀ row ∈ _, RefusesReserved row
  simp only [List.forall_mem_cons]
  exact ⟨refusesReserved_of_accept decodeHead_01, refusesReserved_of_accept decodeHead_02, refusesReserved_sendCommand,
    refusesReserved_of_accept decodeHead_04, refusesReserved_of_accept decodeHead_05,
    refusesReserved_of_accept decodeHead_06, refusesReserved_of_accept decodeHead_07,
    refusesReserved_of_accept decodeHead_10, refusesReserved_of_accept decodeHead_11,
    refusesReserved_of_accept decodeHead_18, refusesReserved_of_accept decodeHead_20,
    refusesReserved_of_accept decodeHead_21, refusesReserved_of_accept decodeHead_28,
    refusesReserved_of_accept decodeHead_29, refusesReserved_of_accept decodeHead_31,
    refusesReserved_of_accept decodeHead_38, refusesReserved_of_accept decodeHead_39,
    refusesReserved_of_accept decodeHead_3a, refusesReserved_of_accept decodeHead_3b,
    refusesReserved_of_accept decodeHead_3c, refusesReserved_of_accept decodeHead_3d,
    refusesReserved_of_accept decodeHead_3e, refusesReserved_of_accept decodeHead_3f, nofun⟩

/-- Settles O13: each part completes and leaves its events, and the last one leaves no response, as the whole does. -/
theorem sendCommandIsItsExpansion : Obligations.SendCommandIsItsExpansion := by
  intro s code payload closed
  symm
  calc execAll ([.startTransaction, .writeCommand code] ++ payload.map .writeData8 ++ [.endTransaction]) s
      = execAll (.writeCommand code :: (payload.map .writeData8 ++ [.endTransaction])) s.startTransaction.finish :=
        execAll_startTransaction closed s.resp
    _ = execAll (payload.map .writeData8 ++ [.endTransaction]) (s.startTransaction.writeCommand code).finish :=
        execAll_writeCommand rfl code
    _ = execAll [.endTransaction] ((s.startTransaction.writeCommand code).emits (payload.map .tx8)).finish :=
        execAll_payload rfl rfl payload
    _ = .next (s.sendCommand code payload).finish := execAll_endTransaction rfl
    _ = exec (.sendCommand code payload) s := (State.outOfBracket_closed closed).symm

/-- Settles O14: on the wire a frame is a command byte, its data bytes and the end of the transaction, and neither end
joins what stands on its other side. -/
theorem sendCommandAddsOneFrame : Obligations.SendCommandAddsOneFrame := by
  intro s code payload h
  refine ⟨fun closed => ⟨_, State.outOfBracket_closed closed, ?_, h.frames_sendCommand closed code payload⟩,
    fun opened => ⟨_, State.inBracket_open opened, h.frames_writeCommand opened code⟩,
    fun opened => ⟨_, State.inBracket_open opened, ?_, h.frames_endTransaction⟩⟩
  · simpa [framesFrom_nil] using h.frames_sendCommand closed code payload []
  · simpa [framesFrom_nil] using h.frames_endTransaction []

/-- Settles O15: the eight operations send a frame's head in either form; and the others that choose their command bytes
send the opcode bytes of the window and memory-access-control alone, which are not the other four. -/
theorem wireCommandSendsItsFrameHead : Obligations.WireCommandSendsItsFrameHead := by
  constructor
  · intro s p hp
    have hexec : exec p.1 s = .next (s.sendFrameHead p.2).finish := by
      fin_cases hp <;> rfl
    rw [hexec]
    refine ⟨fun opened => ?_, fun closed => ?_, ?_⟩
    · rw [State.sendFrameHead_of_opened opened, State.writeCommand_eq, opened]
      rfl
    · rw [State.sendFrameHead_of_closed closed, State.sendCommand_eq]
      rfl
    · cases htxn : s.framer.txn with
      | true =>
        rw [State.sendFrameHead_of_opened htxn]
        exact (State.inBracket_open htxn).symm
      | false =>
        rw [State.sendFrameHead_of_closed htxn]
        exact (State.outOfBracket_closed htxn).symm
  · intro i s t hgiven hrun hbegin hexec
    obtain ⟨-, es, ht, hcodes⟩ := SendsOwn.of_completes (completes_of_exec hexec) hgiven hrun hbegin
    refine ⟨es, ht, fun code hcode => ?_⟩
    have hown : code ∈ ownCodes s.params := by simpa [commandCodes] using hcodes [] (by simpa using hcode)
    exact ⟨hown, ne_of_mem_ownCodes hown⟩

/-- Settles O44: on a display that agrees with its rotation the window's operands lose nothing and the count is even. -/
theorem fillScreenIsItsExpansion : Obligations.FillScreenIsItsExpansion := by
  intro s c12 closed agrees
  obtain ⟨hcount, hright, hbottom⟩ := displayFor_geometry s.display.rotation
  rw [← agrees] at hcount hright hbottom
  have even : (pixelCount s.display).getLsbD 0 = false := by
    rw [hcount]
    decide
  have opened := s.bracketedWindow_txn 0 (s.display.width - 1) 0 (s.display.height - 1)
  have data := s.bracketedWindow_dc 0 (s.display.width - 1) 0 (s.display.height - 1)
  have hzero : (0 : Coord14).setWidth 16 = (0 : Half) := rfl
  rw [← hcount, execAll_toDisplayColor (s := s), execAll_startTransaction closed, execAll_setWindow rfl, hzero, hright,
    hbottom, execAll_streamFill opened data _ even, execAll_endTransaction (by simp)]
  exact (State.outOfBracket_closed closed).trans (evenCount_next.2 ⟨even, rfl⟩)

/-- Settles O47: the window's operands lose nothing, and where the character has no record both sides fault. -/
theorem drawCharIsItsExpansion : Obligations.DrawCharIsItsExpansion := by
  intro s col row char fore12 back12 closed hcol hrow
  obtain ⟨hx1, hx2⟩ := cellX_operands col
  obtain ⟨hy1, hy2⟩ := cellY_operands row
  have opened := s.bracketedWindow_txn (cellX col) (cellX col + 4) (cellY row) (cellY row + 9)
  have data := s.bracketedWindow_dc (cellX col) (cellX col + 4) (cellY row) (cellY row + 9)
  have hrecord := s.bracketedWindow_glyphRecord (cellX col) (cellX col + 4) (cellY row) (cellY row + 9) char
  rw [exec, execDrawChar, State.clips_eq_false hcol hrow, State.outOfBracket_closed closed,
    execAll_toDisplayColor (s := s), execAll_toDisplayColor (s := s), execAll_startTransaction closed,
    execAll_setWindow rfl, hx1, hx2, hy1, hy2]
  cases hg : s.glyphRecord char with
  | none =>
    rw [execAll_streamGlyph_of_no_record opened data (hrecord.trans hg)]
    rfl
  | some g =>
    rw [execAll_streamGlyph opened data (hrecord.trans hg), execAll_endTransaction (by simp)]
    rfl

/-- Settles O5, by evaluating the decoder on each word. -/
theorem writtenOutWordsDecode : Obligations.WrittenOutWordsDecode := by
  unfold Obligations.WrittenOutWordsDecode
  decide

end Sys2Proof.Safety
end

section
/-! PROOFS. The statements of `41_command_framer.md`: what each operation of the framer sends and when it is refused
(R101 to R107, R222), and that the public operations leave no bracket open (R109, R231). -/

namespace Sys2Proof.Machine

open Sys2Proof.Safety

/-! ### Brackets and data writes -/

section
variable (s : State)

theorem State.startTransaction_eq : s.startTransaction = { s with
    trace := s.trace ++ [.busBegin s.params.tables.data.spiClockHz s.params.tables.data.spiMode, .csAssert]
    framer := ⟨true, .asserted, s.framer.dc⟩ } := rfl

theorem State.endTransaction_eq : s.endTransaction = { s with
    trace := s.trace ++ [.csDeassert, .busEnd]
    framer := ⟨false, .deasserted, s.framer.dc⟩ } := rfl

theorem State.emit_eq (e : Event) : s.emit e = { s with trace := s.trace ++ [e] } := rfl

end

section
variable {s : State} {k : Outcome}

/-- The bracket is tested before the selector (R105). -/
theorem State.inDataMode_closed (closed : s.framer.txn = false) : s.inDataMode k = .refused .noTransaction :=
  State.inBracket_closed closed

/-! ### Completing with no bracket open -/

/-- A full-screen fill has an even pixel count in every rotation (R200). -/
theorem pixelCount_even_of_agrees (agrees : DisplayAgrees s) : (pixelCount s.display).getLsbD 0 = false := by
  obtain ⟨hcount, -, -⟩ := displayFor_geometry s.display.rotation
  rw [agrees, hcount]
  decide

section
variable {col row char : Byte} (fore12 back12 : Color12)

theorem exec_drawChar_of_outside (outside : s.clips col row = true) :
    exec (.drawChar col row char fore12 back12) s = .next s.finish := by
  rw [exec, execDrawChar, if_pos outside]

theorem exec_drawChar_of_record (inside : s.clips col row = false) (closed : s.framer.txn = false) {g : Fin 95}
    (record : s.glyphRecord char = some g) :
    exec (.drawChar col row char fore12 back12) s = .next (s.drawCell g col row char fore12 back12).finish := by
  rw [exec, execDrawChar, if_neg (by simp [inside]), State.outOfBracket_closed closed, record]

end

/-- On a built index every character has a record, so a draw completes, clipped or not (R158, R201). -/
theorem exec_drawChar_of_built (built : IndexBuilt s) (closed : s.framer.txn = false) (col row char : Byte)
    (fore12 back12 : Color12) : ∃ t, exec (.drawChar col row char fore12 back12) s = .next t := by
  cases hclips : s.clips col row with
  | true => exact ⟨_, exec_drawChar_of_outside _ _ hclips⟩
  | false => exact ⟨_, exec_drawChar_of_record _ _ hclips closed (State.glyphRecord_of_built built char)⟩

/-- With no bracket open a public operation passes every test it makes (R231). -/
theorem exec_completes_of_isPublic {i : Instr} (hpublic : isPublic i = true) (agrees : DisplayAgrees s)
    (built : IndexBuilt s) (closed : s.framer.txn = false) : ∃ t, exec i s = .next t := by
  cases i with
  | beginDriver | setRotation => exact ⟨_, State.outOfBracket_closed closed⟩
  | fillScreen =>
    have even := pixelCount_even_of_agrees agrees
    exact ⟨_, (State.outOfBracket_closed closed).trans (evenCount_next.2 ⟨even, rfl⟩)⟩
  | drawChar => exact exec_drawChar_of_built built closed _ _ _ _ _
  | getWidth | getHeight | getRows | getColumns => exact ⟨_, rfl⟩
  | _ => cases hpublic

end

end Sys2Proof.Machine

namespace Sys2Proof.Safety

open Sys2Proof.Machine

/-! ### The obligations -/

/-- Settles O52: the invariant lets every test of a public operation pass; only the two bracket operations move `TXN`,
neither of them public, and the lines it keeps agreeing give the level of chip-select. -/
theorem publicOperationsCompleteAndRelease : Obligations.PublicOperationsCompleteAndRelease := by
  intro i s hpublic hinv closed
  obtain ⟨t, ht⟩ := exec_completes_of_isPublic hpublic hinv.display hinv.index closed
  have hc := completes_of_exec ht
  have notStart : i ≠ .startTransaction := by rintro rfl; cases hpublic
  have notEnd : i ≠ .endTransaction := by rintro rfl; cases hpublic
  obtain ⟨htxn, -⟩ := hc.txn_cs notStart notEnd
  have released : t.framer.txn = false := htxn.trans closed
  exact ⟨t, ht, released, (hinv.lines.of_completes hc).cs_of_closed released⟩

/-- Settles O8: the one test, and the events and lines of an opened bracket. -/
theorem startTransactionOpensABracket : Obligations.StartTransactionOpensABracket := by
  refine fun s => ⟨fun closed => ?_, State.outOfBracket_open⟩
  rw [exec, execStartTransaction, State.outOfBracket_closed closed, State.startTransaction_eq, State.finish]

/-- Settles O9: the one test, and the events and lines of a closed bracket. -/
theorem endTransactionClosesTheBracket : Obligations.EndTransactionClosesTheBracket := by
  refine fun s => ⟨fun opened => ?_, State.inBracket_closed⟩
  rw [exec, execEndTransaction, State.inBracket_open opened, State.endTransaction_eq, State.finish]

/-- Settles O10: the selector ends at data whatever it was, and the open bracket stands. -/
theorem writeCommandSendsTheOpcode : Obligations.WriteCommandSendsTheOpcode := by
  refine fun s code => ⟨fun opened => ?_, State.inBracket_closed⟩
  rw [exec, execWriteCommand, State.inBracket_open opened, State.writeCommand_eq, opened, State.finish]

/-- Settles O11: the one test, and the events of the whole frame, for every payload. -/
theorem sendCommandSendsAWholeFrame : Obligations.SendCommandSendsAWholeFrame := by
  refine fun s code payload => ⟨fun closed => ?_, State.outOfBracket_open⟩
  rw [exec, execSendCommand, State.outOfBracket_closed closed, State.sendCommand_eq, State.finish]

/-- Settles O12: the three writes are one word sent under the same two tests. -/
theorem writeDataSendsOneWord : Obligations.WriteDataSendsOneWord := by
  refine fun s b h w => ⟨fun p hp => ?_, rfl, rfl, rfl⟩
  have hexec : exec p.1 s = s.inDataMode (.next (s.emit p.2).finish) := by
    simp only [List.mem_cons, List.not_mem_nil, or_false] at hp
    rcases hp with rfl | rfl | rfl <;> rfl
  rw [hexec, State.emit_eq, State.finish]
  exact ⟨State.inDataMode_ready, State.inDataMode_closed, State.inDataMode_unready⟩

end Sys2Proof.Safety
end

section
/-! PROOFS. The statements of `42_color_converter.md`: the conversion, its inverse and its image (R121 to R124,
R128), and the burst word (R126, R127). -/

namespace Sys2Proof.Machine

/-! ### Colours and their fields -/

/-- A slice of a slice is one slice of the whole. -/
theorem extractLsb'_extractLsb'_of_eq {w first start len outer width : Nat} (x : BitVec w)
    (hfirst : outer + start = first) (hlen : start + len ≤ width) :
    (x.extractLsb' outer width).extractLsb' start len = x.extractLsb' first len := by
  subst hfirst
  refine BitVec.eq_of_getLsbD_eq fun i hi => ?_
  simp [hi, show start + i < width by omega, Nat.add_assoc]

section
variable (r g b : Nibble)

@[simp] theorem red12_color12 : red12 (color12 r g b) = r := by
  rw [red12, color12, BitVec.extractLsb'_append_eq_of_le (by decide), BitVec.extractLsb'_append_eq_left]

@[simp] theorem green12_color12 : green12 (color12 r g b) = g := by
  rw [green12, color12, BitVec.extractLsb'_append_eq_of_le (by decide), BitVec.extractLsb'_append_eq_right]

@[simp] theorem blue12_color12 : blue12 (color12 r g b) = b := BitVec.extractLsb'_append_eq_right

end

@[simp] theorem color12_nibbles (c : Color12) : color12 (red12 c) (green12 c) (blue12 c) = c := by
  rw [color12, red12, green12, blue12, BitVec.extractLsb'_append_extractLsb'_eq_extractLsb' (by decide : 8 = 4 + 4)]
  exact BitVec.extractLsb'_append_extractLsb'

section
variable (r : BitVec 5) (g : BitVec 6) (b : BitVec 5)

@[simp] theorem red5_color16 : red5 (color16 r g b) = r := by
  rw [red5, color16, BitVec.extractLsb'_append_eq_of_le (by decide), BitVec.extractLsb'_append_eq_left]

@[simp] theorem green6_color16 : green6 (color16 r g b) = g := by
  rw [green6, color16, BitVec.extractLsb'_append_eq_of_le (by decide), BitVec.extractLsb'_append_eq_right]

@[simp] theorem blue5_color16 : blue5 (color16 r g b) = b := BitVec.extractLsb'_append_eq_right

end

@[simp] theorem color16_fields (c : Color16) : color16 (red5 c) (green6 c) (blue5 c) = c := by
  rw [color16, red5, green6, blue5, BitVec.extractLsb'_append_extractLsb'_eq_extractLsb' (by decide : 11 = 5 + 6)]
  exact BitVec.extractLsb'_append_extractLsb'

theorem color16_eq_iff {r : BitVec 5} {g : BitVec 6} {b : BitVec 5} {c : Color16} :
    color16 r g b = c ↔ r = red5 c ∧ g = green6 c ∧ b = blue5 c := by
  constructor
  · rintro rfl
    simp
  · rintro ⟨rfl, rfl, rfl⟩
    exact color16_fields c

/-! ### The nibble of a field -/

theorem red4_eq_of_red5 (c : Color16) : red4 c = (red5 c).extractLsb' 1 4 :=
  (extractLsb'_extractLsb'_of_eq c (by rfl) (by decide)).symm

theorem green4_eq_of_green6 (c : Color16) : green4 c = (green6 c).extractLsb' 2 4 :=
  (extractLsb'_extractLsb'_of_eq c (by rfl) (by decide)).symm

theorem blue4_eq_of_blue5 (c : Color16) : blue4 c = (blue5 c).extractLsb' 1 4 :=
  (extractLsb'_extractLsb'_of_eq c (by rfl) (by decide)).symm

theorem extractLsb'_field5Of (n : Nibble) : (field5Of n).extractLsb' 1 4 = n := BitVec.extractLsb'_append_eq_left

theorem extractLsb'_green6Of (fill : GreenFill) (n : Nibble) : (green6Of fill n).extractLsb' 2 4 = n := by
  cases fill <;>
    rw [green6Of, BitVec.extractLsb'_append_eq_of_le (by decide), BitVec.extractLsb'_append_eq_left]

/-- A field is what the conversion makes of its nibble when its precision bit is the nibble's bit 0 (R124). -/
theorem field5Of_extractLsb'_eq_iff : ∀ v : BitVec 5, field5Of (v.extractLsb' 1 4) = v ↔ v.getLsbD 0 = v.getLsbD 1 := by
  decide

theorem green6Of_both_extractLsb'_eq_iff : ∀ v : BitVec 6,
    green6Of .both (v.extractLsb' 2 4) = v ↔ v.getLsbD 1 = v.getLsbD 2 ∧ v.getLsbD 0 = v.getLsbD 2 := by
  decide

theorem green6Of_lsbOnly_extractLsb'_eq_iff : ∀ v : BitVec 6,
    green6Of .lsbOnly (v.extractLsb' 2 4) = v ↔ v.getLsbD 1 = false ∧ v.getLsbD 0 = v.getLsbD 2 := by
  decide

/-! ### The conversion and its inverse (R123, R124) -/

section
variable (fill : GreenFill) (c : Color12)

@[simp] theorem red4_toDisplayColor : red4 (toDisplayColor fill c) = red12 c := by
  rw [red4_eq_of_red5, toDisplayColor, red5_color16, extractLsb'_field5Of]

@[simp] theorem green4_toDisplayColor : green4 (toDisplayColor fill c) = green12 c := by
  rw [green4_eq_of_green6, toDisplayColor, green6_color16, extractLsb'_green6Of]

@[simp] theorem blue4_toDisplayColor : blue4 (toDisplayColor fill c) = blue12 c := by
  rw [blue4_eq_of_blue5, toDisplayColor, blue5_color16, extractLsb'_field5Of]

/-- The nibbles of a converted colour are the colour that was converted (R123). -/
@[simp] theorem color12_nibbles_toDisplayColor : color12 (red4 (toDisplayColor fill c))
    (green4 (toDisplayColor fill c)) (blue4 (toDisplayColor fill c)) = c := by simp

end

theorem toDisplayColor_injective (fill : GreenFill) : Function.Injective (toDisplayColor fill) := by
  intro c c' h
  rw [← color12_nibbles_toDisplayColor fill c, h, color12_nibbles_toDisplayColor]

/-- A colour is reached exactly when the conversion of its own nibbles gives it back, field by field. -/
theorem exists_toDisplayColor_eq_iff {fill : GreenFill} {c : Color16} : (∃ c12, toDisplayColor fill c12 = c) ↔
    field5Of ((red5 c).extractLsb' 1 4) = red5 c ∧ green6Of fill ((green6 c).extractLsb' 2 4) = green6 c
      ∧ field5Of ((blue5 c).extractLsb' 1 4) = blue5 c := by
  rw [← red4_eq_of_red5, ← green4_eq_of_green6, ← blue4_eq_of_blue5]
  constructor
  · rintro ⟨c12, rfl⟩
    simp only [red4_toDisplayColor, green4_toDisplayColor, blue4_toDisplayColor]
    exact color16_eq_iff.1 rfl
  · intro h
    refine ⟨color12 (red4 c) (green4 c) (blue4 c), ?_⟩
    rw [toDisplayColor, red12_color12, green12_color12, blue12_color12]
    exact color16_eq_iff.2 h

section
variable (c : Color16)

theorem getLsbD_red5 {i : Nat} (hi : i < 5) : (red5 c).getLsbD i = c.getLsbD (11 + i) := by
  simp [red5, hi]

theorem getLsbD_green6 {i : Nat} (hi : i < 6) : (green6 c).getLsbD i = c.getLsbD (5 + i) := by
  simp [green6, hi]

theorem getLsbD_blue5 {i : Nat} (hi : i < 5) : (blue5 c).getLsbD i = c.getLsbD i := by
  simp [blue5, hi]

end

/-! ### The conversion as shifts and masks (R121) -/

/-- The low bit of a nibble as a word. -/
theorem setWidth_lowBit (n : Nibble) : (n.extractLsb' 0 1).setWidth 32 = if n.getLsbD 0 then 1#32 else 0#32 := by
  revert n
  decide

theorem setWidth_field5Of (n : Nibble) :
    (field5Of n).setWidth 32 = n.setWidth 32 <<< 1 ||| (if n.getLsbD 0 then 1#32 else 0#32) := by
  rw [field5Of, BitVec.setWidth_append_eq_shiftLeft_setWidth_or, setWidth_lowBit]

/-- The green precision bits in their places: the mask `0x0060`, or under `lsb_only` `0x0020` (R121, R128). -/
def greenMask : GreenFill → Word
  | .both => 0x0060
  | .lsbOnly => 0x0020

theorem setWidth_green6Of_shiftLeft (fill : GreenFill) (n : Nibble) : (green6Of fill n).setWidth 32 <<< 5 =
    n.setWidth 32 <<< 7 ||| (if n.getLsbD 0 then greenMask fill else 0) := by
  cases fill <;>
    rw [green6Of, BitVec.setWidth_append_append_eq_shiftLeft_setWidth_or, setWidth_lowBit, BitVec.or_assoc,
      BitVec.shiftLeft_or_distrib, ← BitVec.shiftLeft_add] <;>
    cases n.getLsbD 0 <;> rfl

/-- The converted colour as a word: the nibbles in their places, and a precision mask for each odd one (R121). -/
theorem setWidth_toDisplayColor (fill : GreenFill) (c : Color12) : (toDisplayColor fill c).setWidth 32 =
    (red12 c).setWidth 32 <<< 12 ||| (green12 c).setWidth 32 <<< 7 ||| (blue12 c).setWidth 32 <<< 1
      ||| (if (red12 c).getLsbD 0 then 0x0800 else 0) ||| (if (green12 c).getLsbD 0 then greenMask fill else 0)
      ||| (if (blue12 c).getLsbD 0 then 0x0001 else 0) := by
  have redMask : (if (red12 c).getLsbD 0 then 1#32 else 0#32) <<< (6 + 5)
      = if (red12 c).getLsbD 0 then 0x0800 else 0 := by split <;> rfl
  rw [toDisplayColor, color16, BitVec.setWidth_append_append_eq_shiftLeft_setWidth_or, setWidth_field5Of,
    setWidth_field5Of, setWidth_green6Of_shiftLeft, BitVec.shiftLeft_or_distrib, ← BitVec.shiftLeft_add, redMask]
  ac_rfl

/-! ### The burst word (R126, R127) -/

theorem lowByte_swap16 (x : Half) : lowByte (swap16 x) = highByte x := BitVec.extractLsb'_append_eq_right

theorem highByte_swap16 (x : Half) : highByte (swap16 x) = lowByte x := BitVec.extractLsb'_append_eq_left

@[simp] theorem swap16_swap16 (x : Half) : swap16 (swap16 x) = x := by
  calc swap16 (swap16 x)
      = lowByte (swap16 x) ++ highByte (swap16 x) := rfl
    _ = highByte x ++ lowByte x := by rw [lowByte_swap16, highByte_swap16]
    _ = x := BitVec.extractLsb'_append_extractLsb'

section
variable (a b : Color16)

theorem packBurstWord_lowHalf : (packBurstWord a b).extractLsb' 0 16 = swap16 a := BitVec.extractLsb'_append_eq_right

theorem packBurstWord_highHalf : (packBurstWord a b).extractLsb' 16 16 = swap16 b := BitVec.extractLsb'_append_eq_left

/-- The bytes of a burst word, the low one first. -/
theorem packBurstWord_bytes : (packBurstWord a b).extractLsb' 0 8 = highByte a
    ∧ (packBurstWord a b).extractLsb' 8 8 = lowByte a ∧ (packBurstWord a b).extractLsb' 16 8 = highByte b
    ∧ (packBurstWord a b).extractLsb' 24 8 = lowByte b := by
  rw [← lowByte_swap16 a, ← lowByte_swap16 b, ← highByte_swap16 a, ← highByte_swap16 b,
    ← packBurstWord_lowHalf a b, ← packBurstWord_highHalf a b]
  refine ⟨?_, ?_, ?_, ?_⟩ <;> exact (extractLsb'_extractLsb'_of_eq _ (by rfl) (by decide)).symm

/-- Packing the halves of a packed word undoes both swaps (R126). -/
theorem packBurstWord_halves : packBurstWord ((packBurstWord a b).extractLsb' 0 16)
    ((packBurstWord a b).extractLsb' 16 16) = b ++ a := by
  rw [packBurstWord_lowHalf, packBurstWord_highHalf, packBurstWord, swap16_swap16, swap16_swap16]

theorem exec_packBurstWord (s : State) :
    exec (.packBurstWord a b) s = .next { s with resp := some (packBurstWord a b) } := by
  rw [exec, execPackBurstWord, State.respond, BitVec.setWidth_eq]

end

end Sys2Proof.Machine

namespace Sys2Proof.Safety

open Sys2Proof.Machine

/-! ### The obligations -/

/-- Settles O17: the nibble bits of a converted colour are the nibbles it was made of, and they determine it. -/
theorem displayColorIsRecoverable : Obligations.DisplayColorIsRecoverable := fun fill c =>
  ⟨red4_toDisplayColor fill c, green4_toDisplayColor fill c, blue4_toDisplayColor fill c,
    fun _ h => toDisplayColor_injective fill h⟩

/-- Settles O18: a colour is reached when each field is the conversion of its own nibble, which fixes its precision bits
alone. -/
theorem inImageColoursAreThese : Obligations.InImageColoursAreThese := by
  intro c
  rw [exists_toDisplayColor_eq_iff, exists_toDisplayColor_eq_iff, field5Of_extractLsb'_eq_iff,
    field5Of_extractLsb'_eq_iff, green6Of_both_extractLsb'_eq_iff, green6Of_lsbOnly_extractLsb'_eq_iff]
  simp only [getLsbD_red5, getLsbD_green6, getLsbD_blue5, Nat.reduceLT, Nat.reduceAdd, and_assoc, and_self]

/-- Settles O16: the conversion read as a word of shifted nibbles and masks, where bit 0 of each nibble is a bit of the
operand. -/
theorem toDisplayColorCopiesLowBits : Obligations.ToDisplayColorCopiesLowBits := by
  intro s c
  have lowBit (lo : Nat) : (c.extractLsb' lo 4).getLsbD 0 = c.getLsbD lo := by simp
  have word := setWidth_toDisplayColor s.params.readings.greenFill c
  rw [red12, green12, blue12, lowBit, lowBit, lowBit] at word
  exact congrArg (fun v : Word => Host.Outcome.next { s with resp := some v }) word

/-- Settles O19: the bytes of the packed word are those of the two colours, and a second packing undoes the swaps. -/
theorem packBurstWordSwapsEachHalf : Obligations.PackBurstWordSwapsEachHalf := by
  intro s a b
  obtain ⟨first, second, third, fourth⟩ := packBurstWord_bytes a b
  refine ⟨packBurstWord a b, exec_packBurstWord a b s, first, second, third, fourth, ?_⟩
  rw [exec_packBurstWord, packBurstWord_halves]

/-- Settles O20: a word leaves low byte first, and the low byte of each half is a high byte of a colour. -/
theorem burstWordLeavesAsTwoPixels : Obligations.BurstWordLeavesAsTwoPixels := by
  intro a b
  obtain ⟨first, second, third, fourth⟩ := packBurstWord_bytes a b
  have leaves : (Event.tx32 (packBurstWord a b)).wireBytes = [highByte a, lowByte a, highByte b, lowByte b] := by
    rw [Event.wireBytes, first, second, third, fourth]
  exact ⟨leaves, leaves⟩

end Sys2Proof.Safety
end

section
/-! PROOFS. The statements of `43_glyph_blender.md`: the channel mix (R137, R143), its bypass (R145), and the blend under
either reading of its channels (R139, R146). -/

namespace Sys2Proof.Machine

/-! ### The channel mix (R137, R143) -/

section
variable {w w' f f' b b' m : Nat}

theorem mix_eq_shiftRight (w f b : Nat) : mix w f b = ((255 - w) * f + w * b) >>> 8 :=
  (Nat.shiftRight_eq_div_pow _ 8).symm

/-- The two weights add up to 255. -/
theorem weightedSum_self (hw : w ≤ 255) (m : Nat) : (255 - w) * m + w * m = 255 * m := by
  rw [← Nat.add_mul, Nat.sub_add_cancel hw]

theorem weightedSum_le (hw : w ≤ 255) (hf : f ≤ m) (hb : b ≤ m) : (255 - w) * f + w * b ≤ 255 * m :=
  (Nat.add_le_add (Nat.mul_le_mul_left _ hf) (Nat.mul_le_mul_left _ hb)).trans_eq (weightedSum_self hw m)

theorem mix_le_mix (hf : f ≤ f') (hb : b ≤ b') : mix w f b ≤ mix w f' b' :=
  Nat.div_le_div_right (Nat.add_le_add (Nat.mul_le_mul_left _ hf) (Nat.mul_le_mul_left _ hb))

/-- Equal channels lose one, at any weight (R143). -/
theorem mix_self (hw : w ≤ 255) (hm : m ≤ 256) : mix w m m = m - 1 := by
  rw [mix, weightedSum_self hw]
  omega

theorem mix_lt (hw : w ≤ 255) (hf : f < m) (hb : b < m) : mix w f b < m := by
  have := weightedSum_le hw (Nat.le_sub_one_of_lt hf) (Nat.le_sub_one_of_lt hb)
  rw [mix]
  omega

theorem mix_zero (hf : f ≤ 256) (b : Nat) : mix 0 f b = f - 1 := by
  rw [mix]
  omega

theorem mix_last (f : Nat) (hb : b ≤ 256) : mix 255 f b = b - 1 := by
  rw [mix]
  omega

/-- Exchanging the channels and their weights changes nothing. -/
theorem mix_swap (hw : w ≤ 255) (f b : Nat) : mix (255 - w) b f = mix w f b := by
  rw [mix, mix, Nat.sub_sub_self hw, Nat.add_comm]

/-- The mix falls as the weight rises, where the foreground is the greater. -/
theorem mix_antitone_weight (hww : w ≤ w') (hw' : w' ≤ 255) (hbf : b ≤ f) : mix w' f b ≤ mix w f b := by
  obtain ⟨d, rfl⟩ := Nat.exists_eq_add_of_le hww
  refine Nat.div_le_div_right ?_
  calc (255 - (w + d)) * f + (w + d) * b
      = (255 - (w + d)) * f + d * b + w * b := by ring
    _ ≤ (255 - (w + d)) * f + d * f + w * b := by gcongr
    _ = (255 - w) * f + w * b := by rw [← Nat.add_mul, show 255 - (w + d) + d = 255 - w by omega]

/-- The mix rises with the weight, where the background is the greater. -/
theorem mix_monotone_weight (hww : w ≤ w') (hw' : w' ≤ 255) (hfb : f ≤ b) : mix w f b ≤ mix w' f b := by
  rw [← mix_swap (hww.trans hw'), ← mix_swap hw']
  exact mix_antitone_weight (Nat.sub_le_sub_left hww 255) (Nat.sub_le 255 w) hfb

end

theorem weight_le (w : Byte) : w.toNat ≤ 255 := Nat.le_of_lt_succ w.isLt

/-! ### The mix of two fields (R137, R145) -/

section
variable {n : Nat} (mode : MixMode) (w : Byte) (f b : BitVec n)

/-- The two modes in one expression: the bypass of R145, else the formula of R137. -/
theorem mixWith_eq (f b : Nat) : mixWith mode w f b =
    if mode = .exactEndpoints ∧ (w.toNat = 0 ∨ f = b) then f
    else if mode = .exactEndpoints ∧ w.toNat = 255 then b
    else ((255 - w.toNat) * f + w.toNat * b) >>> 8 := by
  have first : w = 0#8 ↔ w.toNat = 0 := BitVec.toNat_inj.symm
  have last : w = 255#8 ↔ w.toNat = 255 := BitVec.toNat_inj.symm
  cases mode with
  | literal => simp [mixWith, mix_eq_shiftRight]
  | exactEndpoints =>
    rw [mixWith, ← mix_eq_shiftRight]
    by_cases hfb : f = b
    · simp [hfb]
    · simp [first, last, hfb]

theorem mixWith_lt {m f b : Nat} (hf : f < m) (hb : b < m) : mixWith mode w f b < m := by
  have := mix_lt (weight_le w) hf hb
  rw [mixWith_eq, ← mix_eq_shiftRight]
  split_ifs <;> assumption

/-- The mix of two fields fits their width, so nothing is lost (R137, R146). -/
theorem toNat_mixChannel : (mixChannel mode w f b).toNat = mixWith mode w f.toNat b.toNat :=
  Nat.mod_eq_of_lt (mixWith_lt mode w f.isLt b.isLt)

theorem setWidth_mixChannel (k : Nat) :
    (mixChannel mode w f b).setWidth k = BitVec.ofNat k (mixWith mode w f.toNat b.toNat) := by
  rw [← toNat_mixChannel, BitVec.ofNat_toNat]

theorem mixChannel_literal :
    mixChannel .literal w f b = BitVec.ofNat n (((255 - w.toNat) * f.toNat + w.toNat * b.toNat) >>> 8) := by
  rw [← mix_eq_shiftRight, mixChannel, mixWith]

theorem mixWith_exactEndpoints : mixWith .exactEndpoints w f.toNat b.toNat =
    if w = 0 then f.toNat else if w = 255 then b.toNat else if f = b then f.toNat else mix w.toNat f.toNat b.toNat := by
  simp only [mixWith, BitVec.toNat_inj]

theorem mixChannel_exactEndpoints : mixChannel .exactEndpoints w f b =
    if w = 0 then f else if w = 255 then b else if f = b then f
    else BitVec.ofNat n (((255 - w.toNat) * f.toNat + w.toNat * b.toNat) >>> 8) := by
  simp only [mixChannel, mixWith_exactEndpoints, mix_eq_shiftRight, apply_ite (BitVec.ofNat n), BitVec.ofNat_toNat,
    BitVec.setWidth_eq]

@[simp] theorem mixChannel_exactEndpoints_zero : mixChannel .exactEndpoints 0 f b = f := by
  rw [mixChannel_exactEndpoints, if_pos rfl]

@[simp] theorem mixChannel_exactEndpoints_last : mixChannel .exactEndpoints 255 f b = b := by
  rw [mixChannel_exactEndpoints, if_neg (by decide), if_pos rfl]

@[simp] theorem mixChannel_exactEndpoints_self : mixChannel .exactEndpoints w f f = f := by
  rw [mixChannel_exactEndpoints, if_pos rfl, ite_self, ite_self]

variable {w f b}

theorem mixChannel_literal_antitone_weight {w' : Byte} (hw : w.toNat ≤ w'.toNat) (hbf : b ≤ f) :
    mixChannel .literal w' f b ≤ mixChannel .literal w f b := by
  rw [BitVec.le_def, toNat_mixChannel, toNat_mixChannel]
  exact mix_antitone_weight hw (weight_le w') hbf

theorem mixChannel_literal_monotone_weight {w' : Byte} (hw : w.toNat ≤ w'.toNat) (hfb : f ≤ b) :
    mixChannel .literal w f b ≤ mixChannel .literal w' f b := by
  rw [BitVec.le_def, toNat_mixChannel, toNat_mixChannel]
  exact mix_monotone_weight hw (weight_le w') hfb

end

section
variable (f b : Nibble)

/-- Weight 0 leaves the foreground's nibble less one (R141). -/
theorem mixChannel_literal_zero : mixChannel .literal 0 f b = BitVec.ofNat 4 (f.toNat - 1) :=
  congrArg (BitVec.ofNat 4) (mix_zero (by omega) b.toNat)

/-- Weight 255 leaves the background's nibble less one (R141). -/
theorem mixChannel_literal_last : mixChannel .literal 255 f b = BitVec.ofNat 4 (b.toNat - 1) :=
  congrArg (BitVec.ofNat 4) (mix_last f.toNat (by omega))

end

/-! ### The blend (R139, R146) -/

theorem exec_blend (tone : Nibble) (fore back : Color16) (s : State) : exec (.blend tone fore back) s =
    .next { s with
      hold := { s.hold with fore := fore, back := back }
      resp := some ((blend s.params tone fore back).setWidth 32) } := rfl

section
variable {p : Params} (tone : Nibble) (fore back : Color16)

theorem blend_of_nibble (h : p.readings.blendChannels = .nibble) : blend p tone fore back =
    toDisplayColor p.readings.greenFill
      (color12 (mixChannel p.readings.mixMode (shadeOf p.tables tone) (red4 fore) (red4 back))
        (mixChannel p.readings.mixMode (shadeOf p.tables tone) (green4 fore) (green4 back))
        (mixChannel p.readings.mixMode (shadeOf p.tables tone) (blue4 fore) (blue4 back))) := by
  rw [blend, blendWeighted, h]

theorem blend_of_field (h : p.readings.blendChannels = .field) : blend p tone fore back =
    color16 (mixChannel p.readings.mixMode (shadeOf p.tables tone) (red5 fore) (red5 back))
      (restoreGreen p.readings.greenFill
        (mixChannel p.readings.mixMode (shadeOf p.tables tone) (green6 fore) (green6 back)))
      (mixChannel p.readings.mixMode (shadeOf p.tables tone) (blue5 fore) (blue5 back)) := by
  rw [blend, blendWeighted, h]

/-- The nibble of a blend in each place is the mix of the operands' nibbles in that place. -/
theorem extractLsb'_blend (h : p.readings.blendChannels = .nibble) {lo : Nat} (hlo : lo ∈ [12, 7, 1]) :
    (blend p tone fore back).extractLsb' lo 4 =
      mixChannel p.readings.mixMode (shadeOf p.tables tone) (fore.extractLsb' lo 4) (back.extractLsb' lo 4) := by
  rw [blend_of_nibble tone fore back h]
  simp only [List.mem_cons, List.not_mem_nil, or_false] at hlo
  rcases hlo with rfl | rfl | rfl
  · exact (red4_toDisplayColor _ _).trans (red12_color12 _ _ _)
  · exact (green4_toDisplayColor _ _).trans (green12_color12 _ _ _)
  · exact (blue4_toDisplayColor _ _).trans (blue12_color12 _ _ _)

end

/-! ### The fields of a blend as a word (R146) -/

theorem setWidth_color16 (r : BitVec 5) (g : BitVec 6) (b : BitVec 5) : (color16 r g b).setWidth 32 =
    r.setWidth 32 <<< 11 ||| g.setWidth 32 <<< 5 ||| b.setWidth 32 := by
  rw [color16, BitVec.setWidth_append_append_eq_shiftLeft_setWidth_or]

/-- An odd green sets the mask `0x0060` under `GREEN_FILL = both` (R146). -/
theorem setWidth_restoreGreen_shiftLeft (fill : GreenFill) (g : BitVec 6) :
    (restoreGreen fill g).setWidth 32 <<< 5 =
      g.setWidth 32 <<< 5 ||| (if g.toNat % 2 = 1 ∧ fill = .both then 0x0060#32 else 0#32) := by
  cases fill with
  | both => revert g; decide
  | lsbOnly => simp [restoreGreen]

end Sys2Proof.Machine

namespace Sys2Proof.Safety

open Sys2Proof.Machine

/-! ### The obligations -/

/-- Settles O21: the latched operands, and each nibble by the formula. -/
theorem blendMixesNibbles : Obligations.BlendMixesNibbles := by
  intro s tone fore back hchannels hmode w m
  rw [exec_blend, blend_of_nibble tone fore back hchannels, hmode, mixChannel_literal, mixChannel_literal,
    mixChannel_literal]
  rfl

/-- Settles O22: each field of the blend fits its own width, so the word is the three mixes in their places. -/
theorem blendMixesFields : Obligations.BlendMixesFields := by
  intro s tone fore back hchannels w m g
  have mixes (f b : Nat) : mixWith s.params.readings.mixMode (shadeOf s.params.tables tone) f b = m f b :=
    mixWith_eq _ _ f b
  have maskLast (red green blue mask : Word) : red ||| (green ||| mask) ||| blue = red ||| green ||| blue ||| mask := by
    ac_rfl
  rw [exec_blend, blend_of_field tone fore back hchannels, setWidth_color16, setWidth_restoreGreen_shiftLeft,
    setWidth_mixChannel, setWidth_mixChannel, setWidth_mixChannel, toNat_mixChannel, mixes, mixes, mixes,
    maskLast]
  rfl

/-- Settles O23: the bypass keeps a nibble at either end tone and where the operands agree. -/
theorem exactEndpointsKeepTheColour : Obligations.ExactEndpointsKeepTheColour := by
  intro s tone fore back hchannels hmode w m nibbles fill
  refine ⟨?_, ?_, ?_, ?_, fun c => congrArg (toDisplayColor fill) (color12_nibbles_toDisplayColor fill c)⟩
  · rw [exec_blend, blend_of_nibble _ _ _ hchannels, hmode, mixChannel_exactEndpoints, mixChannel_exactEndpoints,
      mixChannel_exactEndpoints]
    rfl
  · rw [blend_of_nibble _ _ _ hchannels, hmode, shadeOf_zero]
    simp only [mixChannel_exactEndpoints_zero]
    rfl
  · rw [blend_of_nibble _ _ _ hchannels, hmode, shadeOf_last]
    simp only [mixChannel_exactEndpoints_last]
    rfl
  · rw [blend_of_nibble _ _ _ hchannels, hmode]
    simp only [mixChannel_exactEndpoints_self]
    rfl

/-- Settles O24: the mix grows with each channel, so it lies between the mixes of the lesser with itself and of the
greater with itself; the weight moves it towards the background. -/
theorem mixStaysBetweenItsChannels : Obligations.MixStaysBetweenItsChannels := by
  intro w f b hw hf hb
  have hsum : (255 - w) * f + w * b ≤ 3825 := weightedSum_le hw hf hb
  have moves {w w' : Nat} (hww : w ≤ w') (hw' : w' ≤ 255) :
      (b ≤ f → mix w' f b ≤ mix w f b) ∧ (f ≤ b → mix w f b ≤ mix w' f b) :=
    ⟨mix_antitone_weight hww hw', mix_monotone_weight hww hw'⟩
  refine ⟨by omega, by omega, hsum, mix_eq_shiftRight w f b, ?_, ?_, ?_, mix_self hw (by omega), fun w' => moves,
    fun p t t' ht => moves (shadeOf_mono p ht) (weight_le _)⟩
  · exact (mix_le_mix hf hb).trans_eq (mix_self hw (by decide))
  · exact (mix_self hw (by omega)).symm.trans_le (mix_le_mix (min_le_left f b) (min_le_right f b))
  · exact (mix_le_mix (le_max_left f b) (le_max_right f b)).trans_eq (mix_self hw (by omega))

/-- Settles O25: the weights of the end tones are 0 and 255 (R136), where one channel drops out. -/
theorem endTonesLoseOne : Obligations.EndTonesLoseOne := by
  intro p fore back hp less lesser
  have hchannels : p.readings.blendChannels = .nibble := congrArg Readings.blendChannels hp
  have first (fore back : Color16) : blend p 0 fore back = lesser fore := by
    rw [blend_of_nibble _ _ _ hchannels, hp, shadeOf_zero]
    simp only [Config.readings, mixChannel_literal_zero]
    rfl
  have last (fore back : Color16) : blend p 15 fore back = lesser back := by
    rw [blend_of_nibble _ _ _ hchannels, hp, shadeOf_last]
    simp only [Config.readings, mixChannel_literal_last]
    rfl
  have white : lesser 0xFFFF = 0xE71C := by decide
  have black : lesser 0x0000 = 0x0000 := by decide
  have red : lesser 0xF800 = 0xE000 := by decide
  exact ⟨fun f b hf hb => ⟨mix_zero (by omega) b, mix_last f (by omega)⟩, first _ _, last _ _, (first _ _).trans white,
    (first _ _).trans black, (last _ _).trans black, (last _ _).trans white, (last _ _).trans red⟩

/-- Settles O26: the nibbles of a converted colour are the 12-bit colour's own (R123), and they are all a blend reads. -/
theorem blendCommutesWithConversion : Obligations.BlendCommutesWithConversion := by
  intro p tone f12 b12 hchannels w m
  have mixes (f b : Nibble) : mixChannel p.readings.mixMode w f b = m f b := by
    simp only [mixChannel, m]
    cases p.readings.mixMode with
    | literal => rfl
    | exactEndpoints => exact congrArg (BitVec.ofNat 4) (mixWith_exactEndpoints w f b)
  rw [blend_of_nibble _ _ _ hchannels]
  simp only [red4_toDisplayColor, green4_toDisplayColor, blue4_toDisplayColor]
  rw [mixes, mixes, mixes]

/-- Settles O27: each nibble of a blend is the mix at its tone's weight, and the weights rise with the tone (R136). -/
theorem blendIsMonotoneInTone : Obligations.BlendIsMonotoneInTone := by
  intro p t t' fore back hchannels hmode ht lo hlo
  rw [extractLsb'_blend t fore back hchannels hlo, extractLsb'_blend t' fore back hchannels hlo, hmode]
  have hweight := shadeOf_mono p.tables ht
  exact ⟨mixChannel_literal_monotone_weight hweight, mixChannel_literal_antitone_weight hweight⟩

end Sys2Proof.Safety
end

section
/-! PROOFS. The statements of `44_font_table.md`: what `BUILD_INDEX` leaves (R152 to R154), and what `LOOKUP` answers
(R155, R156). -/

namespace Sys2Proof.Safety

open Sys2Proof.Machine

section
variable {s : State}

/-! ### Reading a built index (R153) -/

theorem IndexBuilt.read_of_fontCode (h : IndexBuilt s) {c : Byte} {i : Fin 95}
    (hi : fontCode s.params.tables i = c.setWidth 16) : s.indexRead c = recordByte i := by
  rw [h.2, builtIndex_of_fontCode _ hi]

theorem IndexBuilt.read_of_not_code (h : IndexBuilt s) {c : Byte}
    (hc : ∀ i : Fin 95, fontCode s.params.tables i ≠ c.setWidth 16) : s.indexRead c = 0 := by
  rw [h.2, builtIndex_of_not_code _ hc]
  rfl

/-! ### The two operations -/

theorem exec_buildIndex (s : State) : exec .buildIndex s = .next s.buildIndex.finish := rfl

theorem exec_lookup (code : Byte) (s : State) : exec (.lookup code) s = .next { s with
    hold := { s.hold with char := code, glyph := s.indexRead code }
    resp := some ((s.indexRead code).setWidth 32) } := rfl

/-- The index is built whatever canonical form was there before (R154). -/
theorem indexBuilt_buildIndex (hw : Memory.wf (indexDefault s.params.tables) s.index = true) :
    IndexBuilt s.buildIndex := by
  refine ⟨State.buildIndex_wf hw, fun c => ?_⟩
  obtain ⟨hread, -⟩ := s.buildIndex_read hw c
  simpa using hread

/-- `BUILD_INDEX` writes the FontIndex and `SCAN`, which the scan leaves at the last record (R152). -/
theorem buildIndex_eq (hw : Memory.wf (indexDefault s.params.tables) s.index = true) :
    s.buildIndex = { s with index := s.buildIndex.index, count := { s.count with scan := 94 } } := by
  obtain ⟨-, hscan⟩ := s.buildIndex_read hw 0
  have hcount := s.buildIndex_count
  rw [hscan] at hcount
  rw [← hcount]
  exact s.buildIndex_frame

end

/-! ### The obligations -/

/-- Settles O28: the scan leaves a built index, and two built indices list the same elements, none. -/
theorem buildIndexBuildsTheIndex : Obligations.BuildIndexBuildsTheIndex := by
  intro s hw
  have built : IndexBuilt s.buildIndex.finish := (indexBuilt_buildIndex hw).finish
  have hparams : s.buildIndex.finish.params = s.params := by simp
  have hframe := congrArg State.finish (buildIndex_eq hw)
  refine ⟨s.buildIndex.finish, exec_buildIndex s, fun c i hi => ?_, fun c hc => ?_, built, hframe,
    s.buildIndex.finish.buildIndex.finish, exec_buildIndex _, ?_⟩
  · rw [built.read_of_fontCode (by rwa [hparams]), recordByte_toNat]
  · exact built.read_of_not_code (by rwa [hparams])
  · rw [index_eq_nil_of_built built, index_eq_nil_of_built built.buildIndex.finish]

/-- Settles O29: the bytes that are a record's code are the printable ones (R151), and the records at the two ends have
the codes of the ends. -/
theorem lookupFindsTheGlyph : Obligations.LookupFindsTheGlyph := by
  intro s code
  refine ⟨exec_lookup code s, fun built => ⟨fun printable => ?_, fun outside => ?_, ?_, ?_⟩⟩
  · obtain ⟨i, hi⟩ := (isCode_iff s.params.tables code).2 printable
    exact ⟨i, by rw [built.read_of_fontCode hi, recordByte_toNat], hi⟩
  · refine built.read_of_not_code fun i hi => ?_
    have := (isCode_iff s.params.tables code).1 ⟨i, hi⟩
    omega
  · rintro rfl
    exact built.read_of_fontCode (c := 0x20) (fontCode_zero s.params.tables)
  · rintro rfl
    exact built.read_of_fontCode (c := 0x7E) (fontCode_last s.params.tables)

end Sys2Proof.Safety
end

section
/-! PROOFS. The statements of `45_pixel_streamer.md`: the 50 pixels of a streamed glyph (R166 to R172), the words,
yields and bytes of a fill (R174 to R176), and when the two operations are refused (R173, R222). -/

namespace Sys2Proof.Machine

open Sys2Proof.Safety

/-! ### The pixels of a cell (R172) -/

section
variable (p : Params) (g : Fin 95) (fore back : Color16)

/-- The tone of an interior position is the one the machine fetches for it (R79, R157). -/
theorem cell_interior (cx : Fin 4) {k : Fin 9} (hk : k ≠ 0) :
    cell p g fore back cx.castSucc k.castSucc = blend p (toneOf (glyphRow p.tables g k) cx) fore back :=
  dif_pos ⟨cx.isLt, (Fin.pos_iff_ne_zero.2 hk : 0 < k), k.isLt⟩

theorem cell_rightBorder (cy : Fin 10) : cell p g fore back 4 cy = blend p 15 fore back :=
  dif_neg fun h => absurd h.1 (by decide)

theorem cell_borderRow (cx : Fin 5) {row : Fin 10} (hrow : row = 0 ∨ row = 9) :
    cell p g fore back cx row = blend p 15 fore back := by
  rcases hrow with rfl | rfl
  · exact dif_neg fun h => absurd h.2.1 (by decide)
  · exact dif_neg fun h => absurd h.2.2 (by decide)

/-- One row of a cell, left to right. -/
def cellRow (cy : Fin 10) : List Event := (List.finRange 5).map fun cx => .tx16 (cell p g fore back cx cy)

theorem cellRow_border {row : Fin 10} (hrow : row = 0 ∨ row = 9) :
    cellRow p g fore back row = List.replicate 5 (.tx16 (blend p 15 fore back)) := by
  simp only [cellRow, cell_borderRow p g fore back _ hrow]
  rfl

theorem cellRow_interior {k : Fin 9} (hk : k ≠ 0) : cellRow p g fore back k.castSucc =
    [.tx16 (blend p (toneOf (glyphRow p.tables g k) 0) fore back),
     .tx16 (blend p (toneOf (glyphRow p.tables g k) 1) fore back),
     .tx16 (blend p (toneOf (glyphRow p.tables g k) 2) fore back),
     .tx16 (blend p (toneOf (glyphRow p.tables g k) 3) fore back), .tx16 (blend p 15 fore back)] := by
  rw [← cell_interior p g fore back 0 hk, ← cell_interior p g fore back 1 hk, ← cell_interior p g fore back 2 hk,
    ← cell_interior p g fore back 3 hk, ← cell_rightBorder p g fore back k.castSucc]
  rfl

/-- A cell is its border rows with the eight rows of the record between them (R166). -/
theorem cellEvents_eq_rows : cellEvents p g fore back = cellRow p g fore back 0
    ++ ([1, 2, 3, 4, 5, 6, 7, 8] : List (Fin 9)).flatMap (fun k => cellRow p g fore back k.castSucc)
    ++ cellRow p g fore back 9 := rfl

end

/-! ### Streaming a cell (R166) -/

/-- The registers that a glyph is streamed from are as its operands latch them (R21, R166). -/
structure GlyphLatched (p : Params) (fore back : Color16) (s : State) : Prop where
  params : s.params = p
  border : s.hold.border = blend p 15 fore back
  fore : s.hold.fore = fore
  back : s.hold.back = back

section
variable {p : Params} {fore back : Color16} {s : State} (g : Fin 95)

theorem glyphLatched_latchGlyph (s : State) (char : Byte) (fore back : Color16) :
    GlyphLatched s.params fore back (s.latchGlyph g char fore back) := ⟨rfl, rfl, rfl, rfl⟩

theorem GlyphLatched.borderRow (h : GlyphLatched p fore back s) {row : Fin 10} (hrow : row = 0 ∨ row = 9) :
    (s.borderRow row).trace = s.trace ++ cellRow p g fore back row ∧ GlyphLatched p fore back (s.borderRow row) := by
  obtain ⟨htrace, hhold, hparams⟩ := s.borderRow_spec row
  refine ⟨by rw [htrace, h.border, cellRow_border p g fore back hrow], hparams.trans h.params, ?_, ?_, ?_⟩
  · rw [hhold, h.border]
  · rw [hhold, h.fore]
  · rw [hhold, h.back]

theorem GlyphLatched.glyphDataRow (h : GlyphLatched p fore back s) {k : Fin 9} (hk : k ≠ 0) :
    (s.glyphDataRow g k).trace = s.trace ++ cellRow p g fore back k.castSucc
      ∧ GlyphLatched p fore back (s.glyphDataRow g k) := by
  obtain ⟨htrace, hfore, hback, hborder, hparams⟩ := s.glyphDataRow_spec g k
  refine ⟨?_, hparams.trans h.params, hborder.trans h.border, hfore.trans h.fore, hback.trans h.back⟩
  rw [htrace, h.params, h.fore, h.back, h.border, cellRow_interior p g fore back hk]

theorem GlyphLatched.glyphDataRows (h : GlyphLatched p fore back s) {ks : List (Fin 9)} (hks : ∀ k ∈ ks, k ≠ 0) :
    (ks.foldl (State.glyphDataRow g) s).trace = s.trace ++ ks.flatMap (fun k => cellRow p g fore back k.castSucc)
      ∧ GlyphLatched p fore back (ks.foldl (State.glyphDataRow g) s) := by
  induction ks generalizing s with
  | nil => exact ⟨(List.append_nil _).symm, h⟩
  | cons k rest ih =>
    obtain ⟨hk, hrest⟩ := List.forall_mem_cons.1 hks
    obtain ⟨htrace, hlatched⟩ := h.glyphDataRow g hk
    obtain ⟨htraces, hlatcheds⟩ := ih hlatched hrest
    exact ⟨by rw [List.foldl_cons, htraces, htrace, List.append_assoc, List.flatMap_cons], hlatcheds⟩

/-- Streaming a glyph appends the pixels of its record's cell (R171, R172). -/
theorem State.streamGlyph_trace (s : State) (char : Byte) (fore back : Color16) :
    (s.streamGlyph g char fore back).trace = s.trace ++ cellEvents s.params g fore back := by
  obtain ⟨htop, h⟩ := (glyphLatched_latchGlyph g s char fore back).borderRow g (.inl rfl)
  obtain ⟨hrows, h⟩ := h.glyphDataRows g (ks := [1, 2, 3, 4, 5, 6, 7, 8]) (by decide)
  obtain ⟨hbottom, -⟩ := h.borderRow g (.inr rfl)
  rw [State.streamGlyph, hbottom, hrows, htop, cellEvents_eq_rows, List.append_assoc, List.append_assoc,
    List.append_assoc]
  rfl

end

/-! ### The events of a fill (R174 to R176) -/

/-- The parity test of a fill reads bit 0 of the count (R174). -/
theorem getLsbD_zero_eq_mod_two (n : Word) : n.getLsbD 0 = decide (n.toNat % 2 = 1) := Nat.testBit_zero _

theorem getLsbD_zero_eq_false_iff {n : Word} : n.getLsbD 0 = false ↔ n.toNat % 2 = 0 := by
  rw [getLsbD_zero_eq_mod_two, decide_eq_false_iff_not]
  exact Nat.mod_two_ne_one

theorem evenCount_of_odd {n : Word} {k : Outcome} (odd : n.toNat % 2 = 1) :
    evenCount n k = .refused .oddPixelCount := by
  rw [evenCount, getLsbD_zero_eq_mod_two, if_pos (decide_eq_true odd)]

theorem exec_streamFill_ready {s : State} (opened : s.framer.txn = true) (data : s.framer.dc = .data)
    (c16 : Color16) (n : Word) :
    exec (.streamFill c16 n) s = evenCount n (.next (s.streamFill c16 n).finish) :=
  State.inDataMode_ready opened data

theorem ushiftRight_one_eq_ofNat (n : Word) : n >>> 1 = BitVec.ofNat 32 (n.toNat / 2) := by
  rw [← Nat.shiftRight_one, ← BitVec.toNat_ushiftRight, BitVec.ofNat_toNat, BitVec.setWidth_eq]

section
variable (w : Word) (k : Nat)

theorem fillEvents_succ : fillEvents w (k + 1) =
    fillEvents w k ++ .tx32 w :: if (k + 1) % yieldPeriod = 0 then [.yield] else [] := by
  simp [fillEvents, List.range_succ]

theorem count_tx32_fillEvents : (fillEvents w k).count (.tx32 w) = k := by
  induction k with
  | zero => rfl
  | succ k ih =>
    rw [fillEvents_succ]
    split <;> simp [ih]

theorem count_yield_fillEvents : (fillEvents w k).count .yield = k / yieldPeriod := by
  induction k with
  | zero => rfl
  | succ k ih =>
    rw [fillEvents_succ]
    split
    · simp [ih, Nat.succ_div_of_mod_eq_zero ‹_›]
    · simp [ih, Nat.succ_div_of_mod_ne_zero ‹_›]

theorem length_fillEvents : (fillEvents w k).length = k + k / yieldPeriod := by
  induction k with
  | zero => rfl
  | succ k ih =>
    rw [fillEvents_succ]
    split
    · simp [ih, Nat.succ_div_of_mod_eq_zero ‹_›]
      omega
    · simp [ih, Nat.succ_div_of_mod_ne_zero ‹_›]
      omega

/-- The bytes of a fill are those of its words: a yield has none (R175). -/
theorem wireBytes_fillEvents : (fillEvents w k).flatMap Event.wireBytes =
    (List.replicate k (Event.tx32 w).wireBytes).flatten := by
  induction k with
  | zero => rfl
  | succ k ih =>
    rw [fillEvents_succ, List.replicate_succ']
    split <;> simp [ih, Event.wireBytes]

end

/-- Words and yields leave the lines (R175). -/
theorem Lines.after_of_isStreamed (l : Lines) {e : Event} (he : e.isStreamed = true) : l.after e = l := by
  cases e with
  | tx8 | tx16 | tx32 | yield => rfl
  | busBegin | busEnd | csAssert | csDeassert | dcCmd | dcData | delay => cases he

/-- The bytes of a fill of `k` pairs: each of its `2 * k` pixels as data, high byte first (R176). -/
theorem bytesFrom_fillEvents (c16 : Color16) (k : Nat) :
    bytesFrom ⟨true, .asserted, .data⟩ (fillEvents (packBurstWord c16 c16) k)
      = (List.replicate (2 * k) [(.data, highByte c16), (.data, lowByte c16)]).flatten := by
  obtain ⟨leaves, -⟩ := burstWordLeavesAsTwoPixels c16 c16
  rw [bytesFrom_words rfl fun e he => Lines.after_of_isStreamed _ (fillEvents_streamed _ _ e he), wireBytes_fillEvents,
    leaves]
  induction k with
  | zero => rfl
  | succ k ih =>
    rw [List.replicate_succ, List.flatten_cons, List.map_append, ih]
    rfl

end Sys2Proof.Machine

namespace Sys2Proof.Safety

open Sys2Proof.Machine

/-! ### The obligations -/

/-- Settles O30: the record streamed is the one `LOOKUP` numbers, each row sent is a row of its cell, and only the
registers named besides are written. -/
theorem streamGlyphSendsTheCell : Obligations.StreamGlyphSendsTheCell := by
  intro s char fore back g opened data hg
  have record : s.glyphRecord char = some g := (s.glyphRecord_eq_some_iff char g).2 hg
  refine ⟨_, exec_streamGlyph_of_record opened data record fore back, ?_⟩
  have frame := congrArg State.finish (s.streamGlyph_frame g char fore back)
  rw [s.streamGlyph_trace g char fore back] at frame
  exact frame

/-- Settles O33: a fill that completes was even, so its `n / 2` words carry `n` pixels. -/
theorem fillCountsWordsAndYields : Obligations.FillCountsWordsAndYields := by
  intro s t c16 n h
  cases completes_of_exec h with
  | streamFill _ _ _ _ even =>
    have pairs : 2 * (n.toNat / 2) = n.toNat :=
      Nat.mul_div_cancel' (Nat.dvd_of_mod_eq_zero (getLsbD_zero_eq_false_iff.1 even))
    refine ⟨_, rfl, count_tx32_fillEvents _ _, count_yield_fillEvents _ _, length_fillEvents _ _, ?_⟩
    rw [bytesFrom_fillEvents, pairs]
    rfl

/-- Settles O32: the three tests in their order, then the events of the fill. -/
theorem streamFillSendsBurstWords : Obligations.StreamFillSendsBurstWords := by
  intro s c16 n
  refine ⟨fun opened data even => ?_, fun opened data odd => ?_, State.inDataMode_unready, State.inDataMode_closed⟩
  · rw [exec_streamFill_ready opened data, s.streamFill_eq, ushiftRight_one_eq_ofNat]
    exact evenCount_next.2 ⟨getLsbD_zero_eq_false_iff.2 even, rfl⟩
  · rw [exec_streamFill_ready opened data, evenCount_of_odd odd]

/-- Settles O34: the bracket is tested first, then the selector, before the record is looked up. -/
theorem streamGlyphNeedsABracketAndData : Obligations.StreamGlyphNeedsABracketAndData :=
  fun _ _ _ _ => ⟨State.inDataMode_closed, State.inDataMode_unready⟩

end Sys2Proof.Safety
end

section
/-! PROOFS. The statements of `46_window_init_facade.md`: window programming and its cache (R187, R188), the init script
(R191 to R193), the driver facade (R194 to R210), and that nothing is gated on `INITIALIZED` (R205). -/

namespace Sys2Proof.Machine

open Sys2Proof.Safety

/-! ### Window programming (R187, R188) -/

section
variable (s : State) (x1 x2 y1 y2 : Half)

theorem State.programColumns_trace : (s.programColumns x1 x2).trace = s.trace ++ columnEvents s x1 x2 := by
  rcases s.programColumns_cases x1 x2 with ⟨held, hc⟩ | ⟨missing, hc⟩ <;> rw [hc]
  · simp [columnEvents, ← AddressWindow.hasColumns_iff, held]
  · simp [columnEvents, ← AddressWindow.hasColumns_iff, missing, commandEvents]

theorem State.programRows_trace : (s.programRows y1 y2).trace = s.trace ++ rowEvents s y1 y2 := by
  rcases s.programRows_cases y1 y2 with ⟨held, hr⟩ | ⟨missing, hr⟩ <;> rw [hr]
  · simp [rowEvents, ← AddressWindow.hasRows_iff, held]
  · simp [rowEvents, ← AddressWindow.hasRows_iff, missing, commandEvents]

/-- Sent or held, the cache ends with the column pair. -/
theorem State.programColumns_window :
    (s.programColumns x1 x2).window = { s.window with x1 := x1, x2 := x2, xv := true } := by
  rcases s.programColumns_cases x1 x2 with ⟨held, hc⟩ | ⟨-, hc⟩ <;> rw [hc]
  obtain ⟨hxv, hx1, hx2⟩ := (AddressWindow.hasColumns_iff _ _ _).1 held
  rw [← hxv, ← hx1, ← hx2]

theorem State.programRows_window :
    (s.programRows y1 y2).window = { s.window with y1 := y1, y2 := y2, yv := true } := by
  rcases s.programRows_cases y1 y2 with ⟨held, hr⟩ | ⟨-, hr⟩ <;> rw [hr]
  obtain ⟨hyv, hy1, hy2⟩ := (AddressWindow.hasRows_iff _ _ _).1 held
  rw [← hyv, ← hy1, ← hy2]

/-- Programming the columns leaves the row axis of the cache, so the same row frame follows. -/
theorem rowEvents_programColumns : rowEvents (s.programColumns x1 x2) y1 y2 = rowEvents s y1 y2 := by
  rcases s.programColumns_cases x1 x2 with ⟨-, hc⟩ | ⟨-, hc⟩ <;> rw [hc]
  rfl

/-- Window programming appends its events, leaves the selector at data and the cache with both pairs. -/
theorem State.setWindow_eq : s.setWindow x1 x2 y1 y2 = { s with
    trace := s.trace ++ windowEvents s x1 x2 y1 y2
    framer := ⟨s.framer.txn, s.framer.cs, .data⟩
    window := ⟨x1, x2, true, y1, y2, true⟩ } := by
  have htrace : (s.setWindow x1 x2 y1 y2).trace = s.trace ++ windowEvents s x1 x2 y1 y2 := by
    rw [State.setWindow, State.writeCommand_trace, State.programRows_trace, s.programColumns_trace,
      rowEvents_programColumns, windowEvents, ← List.append_assoc, ← List.append_assoc]
    rfl
  have hwindow : (s.setWindow x1 x2 y1 y2).window = ⟨x1, x2, true, y1, y2, true⟩ := by
    rw [State.setWindow, State.writeCommand_window, State.programRows_window, s.programColumns_window]
  rw [s.setWindow_frame, htrace, hwindow]

end

section
variable {s t : State} {x1 x2 y1 y2 : Coord14}

theorem exec_setWindow (opened : s.framer.txn = true) (x1 x2 y1 y2 : Coord14) : exec (.setWindow x1 x2 y1 y2) s =
    .next (s.setWindow (x1.setWidth 16) (x2.setWidth 16) (y1.setWidth 16) (y2.setWidth 16)).finish :=
  State.inBracket_open opened

theorem setWindow_trace_of_exec (opened : s.framer.txn = true) (x1 x2 y1 y2 : Coord14) :
    ∃ u, exec (.setWindow x1 x2 y1 y2) s = .next u ∧
      u.trace = s.trace ++ windowEvents s (x1.setWidth 16) (x2.setWidth 16) (y1.setWidth 16) (y2.setWidth 16) :=
  ⟨_, exec_setWindow opened x1 x2 y1 y2, by rw [State.finish_trace, State.setWindow_eq]⟩

/-- What a `SET_WINDOW` that completes leaves for the next: an open bracket, the same parameters, and a cache that
holds both its pairs. -/
theorem cached_of_exec_setWindow (h : exec (.setWindow x1 x2 y1 y2) s = .next t) : t.framer.txn = true ∧
    t.params = s.params ∧ columnEvents t (x1.setWidth 16) (x2.setWidth 16) = [] ∧
    rowEvents t (y1.setWidth 16) (y2.setWidth 16) = [] := by
  cases completes_of_exec h with
  | setWindow opened =>
    rw [State.setWindow_eq]
    exact ⟨opened, rfl, if_pos ⟨rfl, rfl, rfl⟩, if_pos ⟨rfl, rfl, rfl⟩⟩

/-- The cache stands, or the operation has programmed a window and both axes are valid (R187, D30). -/
theorem Completes.window_cases {i : Instr} (h : Completes s i t) :
    t.window = s.window ∨ t.window.xv = true ∧ t.window.yv = true := by
  cases h with
  | setWindow | fillScreen | drawChar => exact .inr (by simp [State.drawCell, State.setWindow_eq])
  | _ => simp

end

/-! ### The init script (R191, R192) -/

section
variable (t : Tables)

/-- The record the script spells at offset `p` with its opcode and length byte, as the machine splits it (R82). -/
def recordAt (p : Nat) (op lengthByte : Byte) : ScriptRecord :=
  ⟨op, scriptPayload t p (payloadLength lengthByte), delayFlag lengthByte⟩

/-- From offset `p` the script spells these records and then, at offset `stop`, the zero opcode (R82, R83); at most `left`
offsets hold an opcode. -/
inductive Spells : (left p : Nat) → (records : List ScriptRecord) → (stop : Nat) → Prop
  | terminator {left p : Nat} (zero : t.data.script[p]? = some 0) : Spells (left + 1) p [] p
  | record {left p stop : Nat} {op lengthByte : Byte} {records : List ScriptRecord} (opcode : t.data.script[p]? = some op)
      (nonzero : op ≠ 0) (length : t.data.script[p + 1]? = some lengthByte)
      (fits : p + 2 + payloadLength lengthByte ≤ t.data.script.length)
      (later : Spells left (p + 2 + payloadLength lengthByte) records stop) :
      Spells (left + 1) p (recordAt t p op lengthByte :: records) stop

variable {t} {left p stop : Nat} {records : List ScriptRecord}

/-- A well-formed script spells records up to a zero opcode (R83). -/
theorem exists_spells_of_scriptOkFrom (h : scriptOkFrom t.data.script left p = true) :
    ∃ records stop, Spells t left p records stop := by
  induction left generalizing p with
  | zero => cases h
  | succ left ih =>
    rw [scriptOkFrom] at h
    split at h
    · cases h
    · split at h
      · subst_vars
        exact ⟨_, _, .terminator ‹_›⟩
      · split at h
        · cases h
        · obtain ⟨fits, later⟩ := Bool.and_eq_true_iff.1 h
          obtain ⟨records, stop, hs⟩ := ih later
          exact ⟨_, _, .record ‹_› ‹_› ‹_› (of_decide_eq_true fits) hs⟩

theorem Spells.zero_at_stop (h : Spells t left p records stop) : t.data.script[stop]? = some 0 := by
  induction h with
  | terminator zero => exact zero
  | record _ _ _ _ _ ih => exact ih

theorem drop_eq_cons_of_getElem? {α : Type} {xs : List α} {x : α} (h : xs[p]? = some x) :
    xs.drop p = x :: xs.drop (p + 1) := by
  rw [List.drop_eq_getElem?_toList_append, h]
  rfl

/-- The records as `initRecords` reads them are the ones spelled. -/
theorem Spells.scriptRecords_eq (h : Spells t left p records stop) :
    scriptRecords left (t.data.script.drop p) = records := by
  induction h with
  | terminator zero =>
    rw [drop_eq_cons_of_getElem? zero]
    cases t.data.script.drop _ with
    | nil => rfl
    | cons _ _ => exact if_pos rfl
  | record opcode nonzero length _ _ ih =>
    rw [drop_eq_cons_of_getElem? opcode, drop_eq_cons_of_getElem? length, scriptRecords, if_neg nonzero, List.drop_drop,
      ← payloadLength_eq, ← delayFlag_eq, ih]
    rfl

/-- The bytes that spell a record (R82). -/
def spelling (r : ScriptRecord) : List Byte :=
  r.opcode :: BitVec.ofNat 8 (r.payload.length + if r.flag then 128 else 0) :: r.payload

theorem length_scriptPayload {n : Nat} (h : p + 2 + n ≤ t.data.script.length) : (scriptPayload t p n).length = n := by
  simp [scriptPayload]
  omega

theorem lengthByte_eq (lengthByte : Byte) :
    BitVec.ofNat 8 (payloadLength lengthByte + if delayFlag lengthByte then 128 else 0) = lengthByte := by
  revert lengthByte
  decide

/-- The script from a record on: the record's spelling, and the script from the next offset on. -/
theorem drop_eq_spelling_append {op lengthByte : Byte} (opcode : t.data.script[p]? = some op)
    (length : t.data.script[p + 1]? = some lengthByte) (fits : p + 2 + payloadLength lengthByte ≤ t.data.script.length) :
    t.data.script.drop p = spelling (recordAt t p op lengthByte)
      ++ t.data.script.drop (p + 2 + payloadLength lengthByte) := by
  have later : t.data.script.drop (p + 2) = scriptPayload t p (payloadLength lengthByte)
      ++ t.data.script.drop (p + 2 + payloadLength lengthByte) := by
    rw [scriptPayload, ← List.drop_drop (i := payloadLength lengthByte), List.take_append_drop]
  rw [drop_eq_cons_of_getElem? opcode, drop_eq_cons_of_getElem? length, later, spelling, recordAt,
    length_scriptPayload fits, lengthByte_eq]
  rfl

theorem Spells.drop_eq (h : Spells t left p records stop) :
    t.data.script.drop p = records.flatMap spelling ++ t.data.script.drop stop := by
  induction h with
  | terminator => rfl
  | record opcode _ length fits _ ih =>
    rw [drop_eq_spelling_append opcode length fits, ih, List.flatMap_cons, List.append_assoc]

theorem Spells.wellFormed (h : Spells t left p records stop) :
    ∀ r ∈ records, r.opcode ≠ 0 ∧ r.payload.length ≤ 127 := by
  induction h with
  | terminator => simp
  | @record _ _ _ op lengthByte _ _ nonzero _ fits _ ih =>
    refine List.forall_mem_cons.2 ⟨⟨nonzero, ?_⟩, ih⟩
    rw [recordAt, length_scriptPayload fits, payloadLength_eq]
    omega

/-- The events of one record: a whole frame in its own bracket, then the settle delay (R191, R192). -/
def recordEvents (p : Params) (r : ScriptRecord) : List Event :=
  openEvents p ++ commandEvents r.opcode ++ r.payload.map .tx8 ++ closeEvents ++ settle p r.opcode r.flag

end

theorem State.replayScript_terminator {s : State} (zero : s.params.tables.data.script[s.count.sptr]? = some 0)
    (left : Nat) : State.replayScript (left + 1) s = s := by
  simp [State.replayScript, zero]

theorem State.replayScript_record {s : State} {op lengthByte : Byte}
    (opcode : s.params.tables.data.script[s.count.sptr]? = some op) (nonzero : op ≠ 0)
    (length : s.params.tables.data.script[s.count.sptr + 1]? = some lengthByte) (left : Nat) :
    State.replayScript (left + 1) s = State.replayScript left (s.replayRecord op lengthByte) := by
  simp only [State.replayScript, opcode, if_neg nonzero, length]

/-- Replaying sends the records spelled from `SPTR` on, and leaves `SPTR` at the zero opcode. -/
theorem Spells.replayScript_eq {s : State} {left p stop : Nat} {records : List ScriptRecord}
    (h : Spells s.params.tables left p records stop) (hp : s.count.sptr = p) : State.replayScript left s = { s with
      trace := s.trace ++ records.flatMap (recordEvents s.params)
      framer := if records = [] then s.framer else ⟨false, .deasserted, .data⟩
      count := { s.count with sptr := stop } } := by
  generalize ht : s.params.tables = t at h
  induction h generalizing s with
  | terminator zero =>
    subst ht hp
    rw [State.replayScript_terminator zero]
    simp
  | @record _ _ _ op lengthByte _ opcode nonzero length _ _ ih =>
    subst ht hp
    have hstep := s.replayRecord_eq op lengthByte
    rw [State.replayScript_record opcode nonzero length, ih (by rw [hstep]) (by rw [hstep]), hstep, List.flatMap_cons, List.append_assoc]
    simp [recordEvents, openEvents, commandEvents, closeEvents, recordAt]

/-- A script is well formed (R83), so it spells its records from offset 0 on. -/
theorem exists_spells_initRecords (p : Params) :
    ∃ stop, Spells p.tables p.tables.data.script.length 0 (initRecords p) stop := by
  have hok := p.tables.ok
  rw [TableData.ok, Bool.and_eq_true, Bool.and_eq_true] at hok
  obtain ⟨⟨-, hscript⟩, -⟩ := hok
  obtain ⟨records, stop, h⟩ := exists_spells_of_scriptOkFrom hscript
  have hrecords : initRecords p = records := h.scriptRecords_eq
  exact ⟨stop, hrecords ▸ h⟩

/-- `INIT_RUN` sends the records of the script and leaves `SPTR` at the zero opcode (R191; log 14). -/
theorem State.initRun_eq (s : State) : ∃ stop, s.params.tables.data.script[stop]? = some 0 ∧ s.initRun = { s with
      trace := s.trace ++ (initRecords s.params).flatMap (recordEvents s.params)
      framer := if initRecords s.params = [] then s.framer else ⟨false, .deasserted, .data⟩
      count := { s.count with sptr := stop } } := by
  obtain ⟨stop, h⟩ := exists_spells_initRecords s.params
  exact ⟨stop, h.zero_at_stop, Spells.replayScript_eq (s := s.setSptr 0) h rfl⟩

theorem delayShort_le_delayLong (t : Tables) : t.data.delayShortMs ≤ t.data.delayLongMs := by
  have hok := t.ok
  rw [TableData.ok, Bool.and_eq_true] at hok
  obtain ⟨-, hdelays⟩ := hok
  exact of_decide_eq_true hdelays

theorem exec_initRun {s : State} (closed : s.framer.txn = false) : exec .initRun s = .next s.initRun.finish :=
  State.outOfBracket_closed closed

/-! ### Rotations (R194, R197, R198) -/

theorem rotationOf_eq (m : Byte) : rotationOf m = BitVec.ofNat 2 (m.toNat % 4) := by
  apply BitVec.eq_of_toNat_eq
  simp [rotationOf]

/-- A byte's two low bits outlive the wrap of `m + 4` (R198). -/
theorem rotationOf_add_four (m : Byte) : rotationOf (m + 4) = rotationOf m := by
  have wraps : (m + 4).toNat % 4 = m.toNat % 4 := by
    rw [BitVec.toNat_add]
    change (m.toNat + 4) % 256 % 4 = _
    omega
  rw [rotationOf_eq, rotationOf_eq, wraps]

/-- The table of R194, by the rotation's number. -/
theorem displayFor_eq_table (r : BitVec 2) : displayFor r =
    if r.toNat = 0 ∨ r.toNat = 2 then ⟨r, 240, 320, 32, 48⟩ else ⟨r, 320, 240, 24, 64⟩ := by
  revert r
  decide

theorem displayFor_rotationOf (m : Byte) : displayFor (rotationOf m) =
    if m.toNat % 4 = 0 ∨ m.toNat % 4 = 2 then ⟨rotationOf m, 240, 320, 32, 48⟩
    else ⟨rotationOf m, 320, 240, 24, 64⟩ := by
  have hnumber : (rotationOf m).toNat = m.toNat % 4 := by
    rw [rotationOf_eq, BitVec.toNat_ofNat, Nat.mod_mod]
  rw [displayFor_eq_table, hnumber]

/-- The memory-access-control frame of a rotation (R197). -/
def rotationEvents (p : Params) (r : BitVec 2) : List Event :=
  openEvents p ++ commandEvents p.opcodes.bytes.madctl ++ [.tx8 (madctlOf p.tables r)] ++ closeEvents

/-- `SET_ROTATION` reads the bracket and its operand's two low bits, and writes the display registers and the lines. -/
theorem exec_setRotation {s : State} (closed : s.framer.txn = false) (m : Byte) :
    exec (.setRotation m) s = .next { s with
      display := displayFor (rotationOf m)
      trace := s.trace ++ rotationEvents s.params (rotationOf m)
      framer := ⟨false, .deasserted, .data⟩
      resp := none } := by
  rw [exec, execSetRotation, State.outOfBracket_closed closed, State.sendCommand_eq]
  rfl

/-! ### The full-screen fill (R200) -/

/-- A fill of fewer pairs than the yield period has no yield (R175, D28). -/
theorem fillEvents_of_lt (w : Word) {k : Nat} (hk : k < yieldPeriod) : fillEvents w k = List.replicate k (.tx32 w) := by
  induction k with
  | zero => rfl
  | succ k ih =>
    rw [fillEvents_succ, ih (Nat.lt_of_succ_lt hk), Nat.mod_eq_of_lt hk, if_neg (Nat.succ_ne_zero k),
      List.replicate_succ']

theorem exec_fillScreen {s : State} (closed : s.framer.txn = false) (even : (pixelCount s.display).getLsbD 0 = false)
    (c12 : Color12) : exec (.fillScreen c12) s =
    .next ((((s.startTransaction).setWindow 0 (s.display.width - 1) 0 (s.display.height - 1)).streamFill
      (toDisplayColor s.params.readings.greenFill c12) (pixelCount s.display)).endTransaction).finish :=
  (State.outOfBracket_closed closed).trans (evenCount_next.2 ⟨even, rfl⟩)

/-- A window programmed in a bracket of its own (R200, R202). -/
theorem State.bracketedWindow_eq (s : State) (x1 x2 y1 y2 : Half) : s.startTransaction.setWindow x1 x2 y1 y2 = { s with
    trace := s.trace ++ openEvents s.params ++ windowEvents s x1 x2 y1 y2
    framer := ⟨true, .asserted, .data⟩
    window := ⟨x1, x2, true, y1, y2, true⟩ } := by
  rw [State.setWindow_eq]
  rfl

/-! ### Drawing a cell (R201, R202) -/

theorem State.clips_of_outside {s : State} {col row : Byte}
    (outside : s.display.columns.toNat ≤ col.toNat ∨ s.display.rows.toNat ≤ row.toNat) : s.clips col row = true := by
  have widened (b : Byte) : (b.setWidth 16).toNat = b.toNat := BitVec.toNat_setWidth_of_le (by decide)
  simpa [State.clips, BitVec.le_def, widened] using outside

/-- The bracket, the window of the cell, its pixels, and the end of the bracket. -/
theorem State.drawCell_eq (s : State) (g : Fin 95) (col row char : Byte) (fore12 back12 : Color12) :
    s.drawCell g col row char fore12 back12 = { s with
      trace := s.trace ++ openEvents s.params
        ++ windowEvents s (cellX col) (cellX col + 4) (cellY row) (cellY row + 9)
        ++ cellEvents s.params g (toDisplayColor s.params.readings.greenFill fore12)
          (toDisplayColor s.params.readings.greenFill back12) ++ closeEvents
      framer := ⟨false, .deasserted, .data⟩
      window := ⟨cellX col, cellX col + 4, true, cellY row, cellY row + 9, true⟩
      hold := (s.drawCell g col row char fore12 back12).hold
      memo := (s.drawCell g col row char fore12 back12).memo
      count := (s.drawCell g col row char fore12 back12).count } := by
  rw [State.drawCell, State.bracketedWindow_eq, State.endTransaction_eq, State.streamGlyph_trace,
    State.streamGlyph_frame]
  rfl

/-! ### The bytes of a draw (R203) -/

/-- The number of bytes that events put on the wire. -/
def byteCount (es : List Event) : Nat := (es.flatMap Event.wireBytes).length

@[simp] theorem byteCount_append (es es' : List Event) : byteCount (es ++ es') = byteCount es + byteCount es' := by
  simp [byteCount]

theorem byteCount_columnEvents (s : State) (x1 x2 : Half) : byteCount (columnEvents s x1 x2) =
    if s.window.xv = true ∧ s.window.x1 = x1 ∧ s.window.x2 = x2 then 0 else 5 := by
  rw [columnEvents]
  split <;> rfl

theorem byteCount_rowEvents (s : State) (y1 y2 : Half) : byteCount (rowEvents s y1 y2) =
    if s.window.yv = true ∧ s.window.y1 = y1 ∧ s.window.y2 = y2 then 0 else 5 := by
  rw [rowEvents]
  split <;> rfl

/-- The two coordinate frames, where they are sent, and the memory-write command (R187). -/
theorem byteCount_windowEvents (s : State) (x1 x2 y1 y2 : Half) : byteCount (windowEvents s x1 x2 y1 y2) =
    (if s.window.xv = true ∧ s.window.x1 = x1 ∧ s.window.x2 = x2 then 0 else 5)
      + (if s.window.yv = true ∧ s.window.y1 = y1 ∧ s.window.y2 = y2 then 0 else 5) + 1 := by
  rw [windowEvents, byteCount_append, byteCount_append, byteCount_columnEvents, byteCount_rowEvents]
  rfl

/-- Fifty pixels of two bytes each (R171). -/
theorem byteCount_cellEvents (p : Params) (g : Fin 95) (fore back : Color16) :
    byteCount (cellEvents p g fore back) = 100 := rfl

/-- One byte for the memory-write command, 100 for the pixels, and the coordinate frames the cache does not spare (R203). -/
theorem byteCount_drawCell (s : State) (g : Fin 95) (col row char : Byte) (fore12 back12 : Color12) :
    byteCount (s.drawCell g col row char fore12 back12).trace = byteCount s.trace + 101
      + (if s.window.xv = true ∧ s.window.x1 = cellX col ∧ s.window.x2 = cellX col + 4 then 0 else 5)
      + (if s.window.yv = true ∧ s.window.y1 = cellY row ∧ s.window.y2 = cellY row + 9 then 0 else 5) := by
  have hopen : byteCount (openEvents s.params) = 0 := rfl
  have hclose : byteCount closeEvents = 0 := rfl
  rw [State.drawCell_eq]
  simp only [byteCount_append, hopen, byteCount_windowEvents, byteCount_cellEvents, hclose]
  ring

/-- The bytes of a trace whose lines agree are those of all its events: none is sent outside a bracket (R14). -/
theorem length_bytes_of_linesAgree {s : State} (h : LinesAgree s) : (bytes s.trace).length = byteCount s.trace := by
  obtain ⟨hreplay, -, -⟩ := h
  rw [byteCount, ← bytesFrom_map_snd_of_replayFrom hreplay, List.length_map]
  rfl

/-! ### `INITIALIZED` (R205) -/

/-- `u` is `t` but for `INITIALIZED`. -/
def SameButInitialized (t u : State) : Prop := ∃ flag, u = { t with initialized := flag }

/-- `INITIALIZED` is not among the registers an operation reads, so every update keeps the states so. -/
theorem keptByUpdates_sameButInitialized : KeptByUpdates SameButInitialized := by
  constructor
  case reads =>
    rintro t _ ⟨_, rfl⟩
    exact ⟨rfl, rfl, rfl, rfl, rfl⟩
  all_goals
    rintro t _ v ⟨_, rfl⟩
    exact ⟨_, rfl⟩

end Sys2Proof.Machine

namespace Sys2Proof.Safety

open Sys2Proof.Machine

/-! ### The obligations -/

/-- Settles O35: the one test, and the events and cache of window programming. -/
theorem setWindowProgramsTheChangedAxes : Obligations.SetWindowProgramsTheChangedAxes := by
  refine fun s x1 x2 y1 y2 => ⟨fun opened => ?_, State.inBracket_closed⟩
  rw [exec_setWindow opened, State.setWindow_eq, opened, windowEvents, ← List.append_assoc, ← List.append_assoc]
  rfl

/-- Settles O36: the first call leaves a cache that holds its pairs, so the second sends no frame for a pair it shares. -/
theorem secondWindowIsElided : Obligations.SecondWindowIsElided := by
  intro s t x1 x2 y1 y2 h
  obtain ⟨opened, hparams, hcolumns, hrows⟩ := cached_of_exec_setWindow h
  rw [← hparams]
  refine ⟨fun y1' y2' => ?_, fun x1' x2' => ?_, ?_⟩
  · obtain ⟨u, hu, htrace⟩ := setWindow_trace_of_exec opened x1 x2 y1' y2'
    exact ⟨u, hu, by rw [htrace, windowEvents, hcolumns, List.nil_append, ← List.append_assoc]; rfl⟩
  · obtain ⟨u, hu, htrace⟩ := setWindow_trace_of_exec opened x1' x2' y1 y2
    exact ⟨u, hu, by rw [htrace, windowEvents, hrows, List.append_nil, ← List.append_assoc]; rfl⟩
  · obtain ⟨u, hu, htrace⟩ := setWindow_trace_of_exec opened x1 x2 y1 y2
    exact ⟨u, hu, by rw [htrace, windowEvents, hcolumns, hrows]; rfl⟩

/-- Settles O37: a step waits, or completes an operation, which leaves the cache or both axes of it valid. -/
theorem windowCacheIsNeverInvalidated : Obligations.WindowCacheIsNeverInvalidated := by
  intro s t hstep
  rcases step_next hstep with rfl | ⟨r, later, i, bytes, -, -, hexec⟩
  · exact ⟨id, id⟩
  · rcases (completes_of_exec hexec).window_cases with hw | ⟨hx, hy⟩
    · rw [hw]
      exact ⟨id, id⟩
    · exact ⟨fun _ => hx, fun _ => hy⟩

/-- Settles O38: a well-formed script spells records up to a zero opcode, and the machine replays the ones it spells. -/
theorem initRunReplaysTheScript : Obligations.InitRunReplaysTheScript := by
  intro s
  obtain ⟨stop, h⟩ := exists_spells_initRecords s.params
  refine ⟨⟨s.params.tables.data.script.drop (stop + 1), ?_⟩, h.wellFormed, fun closed => ?_, State.outOfBracket_open⟩
  · rw [← drop_eq_cons_of_getElem? h.zero_at_stop]
    exact h.drop_eq
  · obtain ⟨stop, zero, hrun⟩ := s.initRun_eq
    refine ⟨_, exec_initRun closed, ?_⟩
    rw [hrun]
    exact ⟨rfl, zero, delayShort_le_delayLong _⟩

/-- Settles O39: the events of a run are those of the script's records, which no run changes. -/
theorem initRunIsRepeatable : Obligations.InitRunIsRepeatable := by
  intro s t h
  have hc := completes_of_exec h
  obtain ⟨htxn, -⟩ := hc.txn_cs nofun nofun
  cases hc with
  | initRun closed =>
    have again : s.initRun.finish.framer.txn = false := htxn.trans closed
    obtain ⟨_, -, hfirst⟩ := s.initRun_eq
    obtain ⟨_, -, hsecond⟩ := s.initRun.finish.initRun_eq
    refine ⟨by simp, by simp, by simp, by simp, again, _, (initRecords s.params).flatMap (recordEvents s.params),
      exec_initRun again, ?_, ?_⟩
    · rw [hfirst]
      rfl
    · rw [hsecond, hfirst]
      rfl

/-- Settles O42: only the two low bits of the operand are read, and a rotation reads nothing that it writes. -/
theorem rotationRepeatsModuloFour : Obligations.RotationRepeatsModuloFour := by
  intro s m
  refine ⟨?_, fun t h => ?_⟩
  · rw [exec, exec, execSetRotation, execSetRotation, rotationOf_add_four]
  · obtain ⟨closed, -⟩ := State.outOfBracket_next.1 h
    obtain rfl := Host.Outcome.next.inj ((exec_setRotation closed m).symm.trans h)
    exact ⟨by simp [DisplayAgrees], _, rotationEvents s.params (rotationOf m), exec_setRotation rfl m, rfl, rfl, rfl⟩

/-- Settles O43: on a display that agrees with its rotation the count is 76,800, so its 38,400 words have no yield. -/
theorem fillScreenSendsEveryPixel : Obligations.FillScreenSendsEveryPixel := by
  refine fun s c12 => ⟨fun closed agrees => ?_, State.outOfBracket_open⟩
  obtain ⟨hcount, -, -⟩ := displayFor_geometry s.display.rotation
  rw [← agrees] at hcount
  have words (w : Word) : fillEvents w ((76800 : Word).toNat / 2) = List.replicate 38400 (.tx32 w) :=
    fillEvents_of_lt w (by decide)
  rw [exec_fillScreen closed (pixelCount_even_of_agrees agrees), State.bracketedWindow_eq, State.streamFill_eq, hcount,
    words, State.endTransaction_eq]
  rfl

/-- Settles O46: the record drawn is the one `LOOKUP` numbers. -/
theorem drawCharDrawsTheCell : Obligations.DrawCharDrawsTheCell := by
  intro s col row char fore12 back12 hcol hrow
  have inside := State.clips_eq_false hcol hrow
  refine ⟨fun g closed hg => ?_, fun opened => ?_⟩
  · have record : s.glyphRecord char = some g := (s.glyphRecord_eq_some_iff char g).2 hg
    refine ⟨_, exec_drawChar_of_record _ _ inside closed record, ?_⟩
    exact congrArg State.finish (s.drawCell_eq g col row char fore12 back12)
  · rw [exec, execDrawChar, inside, State.outOfBracket_open opened]
    rfl

/-- Settles O48: on a built index the draw completes, and every byte of its events is sent inside its bracket. -/
theorem drawCharSendsThisManyBytes : Obligations.DrawCharSendsThisManyBytes := by
  intro s col row char fore12 back12 hinv closed hcol hrow
  have drawn := exec_drawChar_of_record fore12 back12 (State.clips_eq_false hcol hrow) closed
    (State.glyphRecord_of_built hinv.index char)
  have after := hinv.lines.of_completes (completes_of_exec drawn)
  refine ⟨_, drawn, ?_⟩
  rw [length_bytes_of_linesAgree after, length_bytes_of_linesAgree hinv.lines, State.finish_trace, byteCount_drawCell,
    cellX, cellY, cellW, cellH]

/-- Settles O59: agreement on all but `INITIALIZED` is kept by every update, so by every operation. -/
theorem initializedGatesNothing : Obligations.InitializedGatesNothing := by
  intro i s flag
  have start : SameButInitialized s { s with initialized := flag } := ⟨flag, rfl⟩
  obtain ⟨hnext, hrest⟩ := (keptByUpdates_sameButInitialized.exec i start).endings
  refine ⟨fun t ht => ?_, hrest⟩
  obtain ⟨_, hu, _, rfl⟩ := hnext t ht
  exact ⟨_, hu, rfl⟩

/-- Settles O40: `BEGIN` is `INIT_RUN` and the flag under the one test of both. -/
theorem beginReplaysTheScriptAndSetsTheFlag : Obligations.BeginReplaysTheScriptAndSetsTheFlag := by
  refine fun s => ⟨fun closed => ⟨_, exec_initRun closed, ?_, by simp⟩, State.outOfBracket_open⟩
  exact State.outOfBracket_closed closed

/-- Settles O41: the registers of the rotation by the table of R194, and its frame. -/
theorem setRotationWritesTheDisplay : Obligations.SetRotationWritesTheDisplay := by
  refine fun s m => ⟨fun closed => ?_, State.outOfBracket_open⟩
  rw [exec_setRotation closed, displayFor_rotationOf, rotationOf_eq]
  rfl

/-- Settles O45: the clip test comes before every other. -/
theorem drawCharClipsOutsideTheGrid : Obligations.DrawCharClipsOutsideTheGrid :=
  fun _ _ _ _ _ _ outside => exec_drawChar_of_outside _ _ (State.clips_of_outside outside)

/-- Settles O49: each read answers its register, widened with zeros. -/
theorem readsAnswerTheirRegisters : Obligations.ReadsAnswerTheirRegisters := by
  intro s p hp
  rw [BitVec.ofNat_toNat]
  simp only [List.mem_cons, List.not_mem_nil, or_false] at hp
  rcases hp with rfl | rfl | rfl | rfl <;> rfl

end Sys2Proof.Safety
end

section
/-! PROOFS. The statements of `60_exceptions.md`: when an operation is refused (R220, R222), that none faults (R215), and
what an unknown character draws (R216). -/

namespace Sys2Proof.Machine

open Sys2Proof.Safety

/-! ### What a head test ends in (R220) -/

section
variable {s : State} {k o : Outcome}

theorem State.inBracket_eq_iff : s.inBracket k = o ↔
    (o = .refused .noTransaction ∧ s.framer.txn = false) ∨ (s.framer.txn = true ∧ k = o) := by
  cases htxn : s.framer.txn with
  | false => simp [State.inBracket_closed htxn, eq_comm (a := o)]
  | true => simp [State.inBracket_open htxn]

theorem State.outOfBracket_eq_iff : s.outOfBracket k = o ↔
    (o = .refused .nestedTransaction ∧ s.framer.txn = true) ∨ (s.framer.txn = false ∧ k = o) := by
  cases htxn : s.framer.txn with
  | false => simp [State.outOfBracket_closed htxn]
  | true => simp [State.outOfBracket_open htxn, eq_comm (a := o)]

/-- The bracket is tested before the selector (R105, R173). -/
theorem State.inDataMode_eq_iff : s.inDataMode k = o ↔
    (o = .refused .noTransaction ∧ s.framer.txn = false) ∨
    (o = .refused .selectorUnknown ∧ s.framer.txn = true ∧ s.framer.dc ≠ .data) ∨
    (s.framer.txn = true ∧ s.framer.dc = .data ∧ k = o) := by
  rw [State.inDataMode, State.inBracket_eq_iff]
  by_cases data : s.framer.dc = .data
  · simp [data]
  · simp [data, eq_comm (a := o), and_comm]

theorem evenCount_eq_iff {n : Word} : evenCount n k = o ↔
    (o = .refused .oddPixelCount ∧ n.toNat % 2 = 1) ∨ (n.toNat % 2 = 0 ∧ k = o) := by
  rcases Nat.mod_two_eq_zero_or_one n.toNat with even | odd
  · rw [evenCount, getLsbD_zero_eq_false_iff.2 even]
    simp [even]
  · simp [evenCount_of_odd odd, odd, eq_comm (a := o)]

theorem State.clips_eq_false_iff {col row : Byte} : s.clips col row = false ↔
    col.toNat < s.display.columns.toNat ∧ row.toNat < s.display.rows.toNat := by
  refine ⟨fun inside => ?_, fun ⟨hcol, hrow⟩ => State.clips_eq_false hcol hrow⟩
  by_contra outside
  rw [State.clips_of_outside (by omega)] at inside
  cases inside

end

/-- The clip test comes first, and the record is looked up last (R201, R220). -/
theorem exec_drawChar_eq_refused_iff {s : State} {r : Refusal} (col row char : Byte) (fore12 back12 : Color12) :
    exec (.drawChar col row char fore12 back12) s = .refused r ↔
      r = .nestedTransaction ∧ s.framer.txn = true
        ∧ col.toNat < s.display.columns.toNat ∧ row.toNat < s.display.rows.toNat := by
  rw [← State.clips_eq_false_iff]
  cases hclips : s.clips col row with
  | true => simp [exec_drawChar_of_outside _ _ hclips]
  | false =>
    rw [exec, execDrawChar, hclips, if_neg Bool.false_ne_true, State.outOfBracket_eq_iff]
    cases s.glyphRecord char <;> simp

/-! ### Faults (R158, R215) -/

section
variable {s : State} {k : Outcome} {why : Fault}

theorem State.eq_fault_of_inBracket (h : s.inBracket k = .fault why) : k = .fault why := by
  obtain ⟨⟨⟩, -⟩ | ⟨-, hk⟩ := State.inBracket_eq_iff.1 h
  exact hk

theorem State.eq_fault_of_outOfBracket (h : s.outOfBracket k = .fault why) : k = .fault why := by
  obtain ⟨⟨⟩, -⟩ | ⟨-, hk⟩ := State.outOfBracket_eq_iff.1 h
  exact hk

theorem State.eq_fault_of_inDataMode (h : s.inDataMode k = .fault why) : k = .fault why := by
  obtain ⟨⟨⟩, -⟩ | ⟨⟨⟩, -⟩ | ⟨-, -, hk⟩ := State.inDataMode_eq_iff.1 h
  exact hk

theorem eq_fault_of_evenCount {n : Word} (h : evenCount n k = .fault why) : k = .fault why := by
  obtain ⟨⟨⟩, -⟩ | ⟨-, hk⟩ := evenCount_eq_iff.1 h
  exact hk

/-- An operation faults only where it would draw a character that has no record (R158; log 11). -/
theorem exists_no_record_of_exec_fault {i : Instr} (h : exec i s = .fault why) : ∃ char, s.glyphRecord char = none := by
  cases i with
  | streamGlyph char =>
    have hk := State.eq_fault_of_inDataMode h
    split at hk
    · cases hk
    · exact ⟨char, ‹_›⟩
  | drawChar col row char =>
    rw [exec, execDrawChar] at h
    split at h
    · cases h
    · have hk := State.eq_fault_of_outOfBracket h
      split at hk
      · cases hk
      · exact ⟨char, ‹_›⟩
  | streamFill => cases eq_fault_of_evenCount (State.eq_fault_of_inDataMode h)
  | fillScreen => cases eq_fault_of_evenCount (State.eq_fault_of_outOfBracket h)
  | startTransaction | sendCommand | initRun | beginDriver | setRotation => cases State.eq_fault_of_outOfBracket h
  | endTransaction | writeCommand | setWindow => cases State.eq_fault_of_inBracket h
  | writeData8 | writeData16 | writeData32 => cases State.eq_fault_of_inDataMode h
  | toDisplayColor | packBurstWord | blend | buildIndex | lookup | getWidth | getHeight | getRows | getColumns
  | swreset | slpout | gammaset | dispon | caset | paset | ramwr | madctl => cases h

end

/-! ### Unknown characters (R216) -/

theorem length_cellEvents (p : Params) (g : Fin 95) (fore back : Color16) :
    (cellEvents p g fore back).length = 50 := rfl

/-- A character that `LOOKUP` answers 0 is drawn as record 0 (R172). -/
theorem exec_streamGlyph_of_indexRead_zero {s : State} (opened : s.framer.txn = true) (data : s.framer.dc = .data)
    {char : Byte} (zero : s.indexRead char = 0) (fore back : Color16) :
    exec (.streamGlyph char fore back) s = .next (s.streamGlyph 0 char fore back).finish := by
  have record : s.glyphRecord char = some 0 := (s.glyphRecord_eq_some_iff char 0).2 (by rw [zero]; rfl)
  exact exec_streamGlyph_of_record opened data record fore back

end Sys2Proof.Machine

namespace Sys2Proof.Safety

open Sys2Proof.Machine

/-! ### The obligations -/

/-- Settles O31: `LOOKUP` answers 0 for the unknown character as for the space, so both draw record 0. -/
theorem unknownCharacterDrawsTheSpace : Obligations.UnknownCharacterDrawsTheSpace := by
  intro s char fore back opened data built outside
  obtain ⟨answer, reads⟩ := lookupFindsTheGlyph s char
  obtain ⟨-, unknown, -, -⟩ := reads built
  obtain ⟨-, -, space, -⟩ := (lookupFindsTheGlyph s 0x20).2 built
  have zero : s.indexRead char = 0 := unknown outside
  refine ⟨⟨_, answer, by rw [zero]; rfl⟩, _, _, exec_streamGlyph_of_indexRead_zero opened data zero fore back,
    exec_streamGlyph_of_indexRead_zero opened data (space rfl) fore back, ?_, ?_, length_cellEvents _ _ _ _⟩
  · exact s.streamGlyph_trace 0 char fore back
  · exact (s.streamGlyph_trace 0 0x20 fore back).trans (s.streamGlyph_trace 0 char fore back).symm

/-- Settles O50: each operation by the tests it makes; the parity test of a full-screen fill passes in every rotation. -/
theorem refusalsAreTheListedOnes : Obligations.RefusalsAreTheListedOnes := by
  intro i s r agrees
  cases i with
  | startTransaction | sendCommand | initRun | beginDriver | setRotation =>
    refine State.outOfBracket_eq_iff.trans ?_
    simp [opensBracket, needsBracket, sendsData]
  | fillScreen =>
    have even := getLsbD_zero_eq_false_iff.1 (pixelCount_even_of_agrees agrees)
    refine State.outOfBracket_eq_iff.trans ?_
    simp [evenCount_eq_iff, even, opensBracket, needsBracket, sendsData]
  | drawChar =>
    rw [exec_drawChar_eq_refused_iff]
    constructor
    · rintro ⟨rfl, opened, inside⟩
      exact .inl ⟨rfl, opened, rfl, by rintro _ _ _ _ _ ⟨⟩; exact inside⟩
    · rintro (⟨rfl, opened, -, inside⟩ | ⟨-, -, ⟨⟩⟩ | ⟨-, -, -, ⟨⟩⟩ | ⟨-, -, -, _, _, ⟨⟩, -⟩)
      exact ⟨rfl, opened, inside _ _ _ _ _ rfl⟩
  | endTransaction | writeCommand | setWindow =>
    refine State.inBracket_eq_iff.trans ?_
    simp [opensBracket, needsBracket, sendsData]
  | writeData8 | writeData16 | writeData32 =>
    refine State.inDataMode_eq_iff.trans ?_
    simp [opensBracket, needsBracket, sendsData]
  | streamGlyph char =>
    refine State.inDataMode_eq_iff.trans ?_
    cases s.glyphRecord char <;> simp [opensBracket, needsBracket, sendsData]
  | streamFill =>
    refine State.inDataMode_eq_iff.trans ?_
    simp [evenCount_eq_iff, opensBracket, needsBracket, sendsData, and_left_comm]
  | toDisplayColor | packBurstWord | blend | buildIndex | lookup | getWidth | getHeight | getRows | getColumns
  | swreset | slpout | gammaset | dispon | caset | paset | ramwr | madctl =>
    refine iff_of_false nofun ?_
    simp [opensBracket, needsBracket, sendsData]

/-- Settles O51: only a character without a record faults, and on a built index every character has one. -/
theorem noOperationFaults : Obligations.NoOperationFaults := by
  intro i s built
  cases hend : exec i s with
  | next t => exact .inl ⟨t, rfl⟩
  | refused r => exact .inr ⟨r, rfl⟩
  | fault why =>
    obtain ⟨char, no_record⟩ := exists_no_record_of_exec_fault hend
    rw [State.glyphRecord_of_built built char] at no_record
    cases no_record

end Sys2Proof.Safety
end
